-- ==== Sys2Proof/Word.lean ====
section
/-! DEFINITION. The fixed-width words of the block (00_scope.md R7: every field and bus is an unsigned bit vector). -/

namespace Sys2Proof

/-- The 8-bit operation word `W[7:0]` (30_encoding.md R70). -/
abbrev OpWord := BitVec 8

/-- One level on a 1-bit pin, or one selector bit (R38, R73). -/
abbrev Level := BitVec 1

/-- A 4-bit drive pattern on the phase lines (R36). -/
abbrev Drive := BitVec 4

/-- A phase index in 0..3 (R35); its additions wrap modulo 4. -/
abbrev PhaseIndex := BitVec 2

end Sys2Proof
end

