-- ==== Sys2Proof/Config.lean ====
section
/-! DEFINITION. The implementation parameters of 00_scope.md R5, and the values the spec takes for them.
The parameters the spec leaves OPEN (`DIST_DIV`, `PHASE_PATTERN`, `CLK_HZ`) and the one value it leaves unspecified
(`PHASE_OUT` at reset) are constants with no body: nothing can prove a value of them. -/

namespace Sys2Proof

/-- `PHASE_PATTERN`: a 4-bit drive pattern for each phase index (R5; R6 bounds each entry by 15, its width here). -/
structure PhaseTable where
  phase0 : Drive
  phase1 : Drive
  phase2 : Drive
  phase3 : Drive
deriving DecidableEq, Repr

/-- `PHASE_PATTERN(p)`. -/
def PhaseTable.pattern (t : PhaseTable) (p : PhaseIndex) : Drive :=
  if p = 0 then t.phase0 else if p = 1 then t.phase1 else if p = 2 then t.phase2 else t.phase3

/-- The parameters of R5. `OPND_W` is not a field: R5 takes it as a maximum of widths (`Config.opndW`). -/
structure Config where
  /-- `TICK_W` -/
  tickW : Nat
  /-- `TIMER_W` -/
  timerW : Nat
  /-- `TIMER_MAX` -/
  timerMax : Nat
  /-- `STEP_W` -/
  stepW : Nat
  /-- `DIST_DIV` -/
  distDiv : Nat
  /-- `DEBOUNCE_WINDOW` -/
  debounceWindow : Nat
  /-- `BTN_PRESSED_LEVEL`; R6's bound {0, 1} is its width. -/
  btnPressedLevel : Level
  /-- `PHASE_PATTERN` -/
  phasePattern : PhaseTable
  /-- `TICK_PERIOD` in microseconds: timing only, no rule reads it (R5, R222). -/
  tickPeriodUs : Nat
  /-- `CLK_HZ`: no rule reads it (R5, 93_implementation_defined.md I25). -/
  clkHz : Nat
deriving DecidableEq, Repr

/-- `OPND_W` = max(`TICK_W`, `STEP_W`, `TIMER_W`) (R5). -/
def Config.opndW (c : Config) : Nat := max (max c.tickW c.stepW) c.timerW

/-- OPEN (92_eei_decisions.md D14): `DIST_DIV` less one, so that `DIST_DIV ≥ 1` (R6) and nothing else is known of it. -/
opaque Config.openDistDivLessOne : Nat

/-- OPEN (D22): the drive pattern of each phase index. -/
opaque Config.openPhasePattern : Nat → Drive

/-- OPEN (R5, I25): the processor's operating frequency. -/
opaque Config.openClkHz : Nat

/-- Unspecified (R22, D23): the level of the four phase lines at block reset, a free draw. -/
opaque Config.phaseOutAtReset : Drive

/-- The configuration with the value R5 takes for each parameter, and a free value for each OPEN one. -/
def Config.specified : Config where
  tickW := 32
  timerW := 16
  timerMax := 65535
  stepW := 32
  distDiv := Config.openDistDivLessOne + 1
  debounceWindow := 15
  btnPressedLevel := 0
  phasePattern := ⟨Config.openPhasePattern 0, Config.openPhasePattern 1, Config.openPhasePattern 2,
    Config.openPhasePattern 3⟩
  tickPeriodUs := 1000
  clkHz := Config.openClkHz

end Sys2Proof
end

