-- ==== Sys2Proof/Syntax.lean ====
section
/-! DEFINITION. The operations of the block: one constructor per row of spec/opcode_table.json, the agents that present
them, and one presented operation word with its operands. -/

namespace Sys2Proof

/-- A transition of the capture input, and the polarity the capture is armed for (R26, R73). -/
inductive Polarity where
  /-- encoded 0 -/
  | rising
  /-- encoded 1 -/
  | falling
deriving DecidableEq, Repr

/-- Direction of travel (R32, R73). -/
inductive Direction where
  /-- Clockwise, encoded 0 -/
  | cw
  /-- CounterClockwise, encoded 1 -/
  | ccw
deriving DecidableEq, Repr

/-- The four agents that present operations (R10, R74). -/
inductive Agent where
  | tickIRQ
  | captureIRQ
  | buttonIRQ
  | host
deriving DecidableEq, Repr

/-- The operations (30_encoding.md R72). An operation carries what its word encodes: the selector bit of `cap.edge` and
`act.set`. The operand buses and `BTN_IN` come beside the word (R71) and stand in the machine's port. -/
inductive Instr where
  /-- `tick`, word 0x00 (R100) -/
  | tick
  /-- `cap.edge`, word 0x01 rise / 0x11 fall (R120) -/
  | capEdge (pol : Polarity)
  /-- `btn.edge`, word 0x02 (R140) -/
  | btnEdge
  /-- `tick.init`, word 0x08 (R102) -/
  | tickInit
  /-- `tick.now`, word 0x09 (R104) -/
  | tickNow
  /-- `tick.reset`, word 0x0A (R106) -/
  | tickReset
  /-- `dist.now`, word 0x0B (R125) -/
  | distNow
  /-- `btn.poll`, word 0x0C (R142) -/
  | btnPoll
  /-- `act.set`, word 0x0D cw / 0x1D ccw (R160) -/
  | actSet (dir : Direction)
  /-- `act.update`, word 0x0E (R161) -/
  | actUpdate
deriving DecidableEq, Repr

/-- One presentation: the arguments of R10's `step` that an agent and the environment supply. -/
structure Presentation (c : Config) where
  agent : Agent
  word : OpWord
  a : BitVec c.opndW
  b : BitVec c.opndW
  /-- the level of `BTN_IN` at this step: a free input (R10, R38) -/
  btnIn : Level
deriving DecidableEq, Repr

end Sys2Proof
end

