-- ==== Sys2Proof/WellFormed.lean ====
section
/-! DEFINITION. What is well formed: a configuration (00_scope.md R6) and a presentation (30_encoding.md R74). Every term
of `Instr` is well formed: each has its encoding. -/

namespace Sys2Proof

/-- R6: `TICK_W`, `TIMER_W` and `STEP_W` are at least 1. -/
def Config.widthsPositive (c : Config) : Bool := c.tickW != 0 && c.timerW != 0 && c.stepW != 0

/-- R6: 1 ≤ `TIMER_MAX` ≤ 2^`TIMER_W` − 1. -/
def Config.timerMaxInRange (c : Config) : Bool := c.timerMax != 0 && decide (c.timerMax < 2 ^ c.timerW)

/-- R6: `DIST_DIV` ≥ 1. -/
def Config.distDivPositive (c : Config) : Bool := c.distDiv != 0

/-- R6: 0 ≤ `DEBOUNCE_WINDOW` ≤ 2^`TICK_W` − 1. -/
def Config.windowInRange (c : Config) : Bool := decide (c.debounceWindow < 2 ^ c.tickW)

/-- R6: the parameters are those of a configuration of the block. -/
def Config.wf (c : Config) : Bool :=
  c.widthsPositive && c.timerMaxInRange && c.distDivPositive && c.windowInRange

/-- R74, as the rule lists it: which words each agent may present. Every (Host, word) pair is a step. -/
def Agent.mayPresent : Agent → OpWord → Bool
  | .tickIRQ, w => w == 0x00
  | .captureIRQ, w => w == 0x01 || w == 0x11
  | .buttonIRQ, w => w == 0x02
  | .host, _ => true

/-- R74: the presentation is a step of the block. -/
def Presentation.wf {c : Config} (p : Presentation c) : Bool := p.agent.mayPresent p.word

end Sys2Proof
end

