-- ==== Sys2Proof/Decode.lean ====
section
/-! DEFINITION. The operation encoding of 30_encoding.md: the word's fields, the decoder (total), the agents' admission,
and the encoder. -/

namespace Sys2Proof

/-- `W[3:0]` (R70). -/
def opField (w : OpWord) : BitVec 4 := w.extractLsb' 0 4

/-- `W[4]` (R70). -/
def selField (w : OpWord) : Level := w.extractLsb' 4 1

/-- `W[7:5]`, must be 0b000 (R70). -/
def rsvField (w : OpWord) : BitVec 3 := w.extractLsb' 5 3

/-- R73: the polarity a selector bit gives. -/
def polarityOf (s : Level) : Polarity := if s = 0 then .rising else .falling

/-- R73: the direction a selector bit gives. -/
def directionOf (s : Level) : Direction := if s = 0 then .cw else .ccw

/-- R72, R73: the operation with code `op` and selector `s`. -/
def opcodeMap (op : Nat) (s : Level) : Option Instr :=
  match op with
  | 0x0 => if s = 0 then some .tick else none
  | 0x1 => some (.capEdge (polarityOf s))
  | 0x2 => if s = 0 then some .btnEdge else none
  | 0x8 => if s = 0 then some .tickInit else none
  | 0x9 => if s = 0 then some .tickNow else none
  | 0xA => if s = 0 then some .tickReset else none
  | 0xB => if s = 0 then some .distNow else none
  | 0xC => if s = 0 then some .btnPoll else none
  | 0xD => some (.actSet (directionOf s))
  | 0xE => if s = 0 then some .actUpdate else none
  | _ => none

/-- The decoder (R70, R72): `none` for every word outside the opcode map (R76). -/
def decode (w : OpWord) : Option Instr :=
  if rsvField w = 0 then opcodeMap (opField w).toNat (selField w) else none

/-- The agent an operation belongs to (R72's agent column). -/
def Instr.agent : Instr → Agent
  | .tick => .tickIRQ
  | .capEdge _ => .captureIRQ
  | .btnEdge => .buttonIRQ
  | .tickInit | .tickNow | .tickReset | .distNow | .btnPoll | .actSet _ | .actUpdate => .host

/-- What a pair (agent, word) is (R74, R75, R76). -/
inductive Admission where
  /-- a step that runs this operation -/
  | operation (i : Instr)
  /-- a Host word `decode_host` finds ILLEGAL: a step that raises `ILLEGAL_OP` -/
  | illegal
  /-- an event agent with a word that is not its own: not a step -/
  | noStep
deriving DecidableEq, Repr

/-- A pair that runs no operation: on the Host port an illegal word, on an event line no step (R74). -/
def rejected : Agent → Admission
  | .host => .illegal
  | .tickIRQ | .captureIRQ | .buttonIRQ => .noStep

/-- R74, R75: an agent runs the operations that belong to it, and no other. -/
def admission (agent : Agent) (w : OpWord) : Admission :=
  match decode w with
  | some i => if i.agent = agent then .operation i else rejected agent
  | none => rejected agent

/-- The instruction this decoder reads from the opcode table's bits: a word of the block is 8 bits, whole (R70), so a
number that needs more is no word. -/
def decodeTableWord (nbits w : Nat) : Option Instr :=
  if w % 2 ^ nbits < 2 ^ 8 then decode (BitVec.ofNat 8 (w % 2 ^ nbits)) else none

/-! ### The encoder -/

/-- R73: the selector bit of a polarity. -/
def Polarity.bit : Polarity → Level
  | .rising => 0
  | .falling => 1

/-- R73: the selector bit of a direction. -/
def Direction.bit : Direction → Level
  | .cw => 0
  | .ccw => 1

/-- R72: the operation code. -/
def Instr.code : Instr → BitVec 4
  | .tick => 0x0
  | .capEdge _ => 0x1
  | .btnEdge => 0x2
  | .tickInit => 0x8
  | .tickNow => 0x9
  | .tickReset => 0xA
  | .distNow => 0xB
  | .btnPoll => 0xC
  | .actSet _ => 0xD
  | .actUpdate => 0xE

/-- R73: the selector bit, 0 where `S` is not a field. -/
def Instr.sel : Instr → Level
  | .capEdge pol => pol.bit
  | .actSet dir => dir.bit
  | .tick | .btnEdge | .tickInit | .tickNow | .tickReset | .distNow | .btnPoll | .actUpdate => 0

/-- R70: `{RSV = 0b000, S, OP}`. -/
def encode (i : Instr) : OpWord := (0b000#3 ++ i.sel) ++ i.code

/-- R79: an operation without an agent prefix is presented by its own agent. -/
def Instr.present {c : Config} (i : Instr) (a b : BitVec c.opndW) (btnIn : Level) : Presentation c :=
  ⟨i.agent, encode i, a, b, btnIn⟩

/-! ### The opcode table, as the spec prints it -/

/-- One row of the opcode table: a word is the row's when it agrees with `value` on the bits of `mask`. -/
structure OpcodeRow where
  mnemonic : String
  mask : OpWord
  value : OpWord
deriving DecidableEq, Repr

/-- The word is the row's. -/
def OpcodeRow.holds (r : OpcodeRow) (w : OpWord) : Bool := w &&& r.mask == r.value

/-- R72, in spec/opcode_table.json's form. -/
def opcodeTable : List OpcodeRow :=
  [⟨"tick", 0xFF, 0x00⟩, ⟨"cap.edge", 0xEF, 0x01⟩, ⟨"btn.edge", 0xFF, 0x02⟩, ⟨"tick.init", 0xFF, 0x08⟩,
   ⟨"tick.now", 0xFF, 0x09⟩, ⟨"tick.reset", 0xFF, 0x0A⟩, ⟨"dist.now", 0xFF, 0x0B⟩, ⟨"btn.poll", 0xFF, 0x0C⟩,
   ⟨"act.set", 0xEF, 0x0D⟩, ⟨"act.update", 0xFF, 0x0E⟩]

/-- The mnemonic of R72. -/
def Instr.mnemonic : Instr → String
  | .tick => "tick"
  | .capEdge _ => "cap.edge"
  | .btnEdge => "btn.edge"
  | .tickInit => "tick.init"
  | .tickNow => "tick.now"
  | .tickReset => "tick.reset"
  | .distNow => "dist.now"
  | .btnPoll => "btn.poll"
  | .actSet _ => "act.set"
  | .actUpdate => "act.update"

end Sys2Proof
end

