-- ==== Sys2Proof/Machine/State.lean ====
section
/-! DEFINITION. The machine's state as plain data: the sixteen fields of 10_state.md R22, the configuration, the operand
port, what the agents present and what the block answered; the reasons a step can stop; block reset. -/

namespace Sys2Proof.Machine

/-- The fault causes (60_exceptions.md R180). A fault is no stop of the machine: it is recorded and answered (R182). -/
inductive Cause where
  /-- code 1: `TICK_COUNT` read or written while `TICK_EN = 0` -/
  | tickUninit
  /-- code 2: `TICK_INIT` while `TICK_EN = 1` -/
  | tickReinit
  /-- code 3: an illegal Host word, or an `ACT_SET` operand wider than its field -/
  | illegalOp
  /-- code 4: a `CAP_EDGE` sample above `TIMER_MAX` -/
  | captureRange
deriving DecidableEq, Repr

/-- `current_edge_phase` (R25). -/
inductive CapPhase where
  /-- encoded 0 -/
  | awaitingRise
  /-- encoded 1 -/
  | awaitingFall
deriving DecidableEq, Repr

/-- The complete architectural state of the block: the fields of R22, and nothing else. -/
structure Block (c : Config) where
  /-- `TICK_COUNT` (R23) -/
  tickCount : BitVec c.tickW
  /-- `TICK_EN`, the interrupt gate (R24) -/
  tickEn : Bool
  /-- `CAP_PHASE` (R25) -/
  capPhase : CapPhase
  /-- `CAP_POL` (R26) -/
  capPol : Polarity
  /-- `CAP_RISE_TS` (R27) -/
  capRiseTs : BitVec c.timerW
  /-- `CAP_FALL_TS` (R27) -/
  capFallTs : BitVec c.timerW
  /-- `CAP_PULSE_WIDTH` (R28) -/
  capPulseWidth : BitVec c.timerW
  /-- `DB_PENDING` (R29) -/
  dbPending : Bool
  /-- `DB_PRESS_TS` (R30) -/
  dbPressTs : BitVec c.tickW
  /-- `ACT_STEPS` (R31) -/
  actSteps : BitVec c.stepW
  /-- `ACT_DIR` (R32) -/
  actDir : Direction
  /-- `ACT_INTERVAL` (R33) -/
  actInterval : BitVec c.tickW
  /-- `ACT_LAST_TS` (R34) -/
  actLastTs : BitVec c.tickW
  /-- `ACT_PHASE` (R35) -/
  actPhase : PhaseIndex
  /-- `PHASE_OUT[3:0]` (R36) -/
  phaseOut : Drive
  /-- `FAULT_CAUSE[7:0]` (R37) -/
  faultCause : BitVec 8
deriving DecidableEq, Repr

/-- What an operation answers on the response bus R (30_encoding.md R71). -/
inductive Response (c : Config) where
  | none
  | value (v : BitVec c.opndW)
  | fault (cause : Cause)
deriving DecidableEq, Repr

/-- The operand buses A and B and the pin input `BTN_IN`, as the operation being run sees them (R71). The model's own
place for three inputs of R10's `step`: every step writes it before an operation reads it (notes/assumptions/3). -/
structure Port (c : Config) where
  a : BitVec c.opndW
  b : BitVec c.opndW
  btnIn : Level
deriving DecidableEq, Repr

/-- Everything a step takes and gives (R10). `block` is the spec's state. The rest is what R10 passes beside it: the
configuration (a parameter no step writes, notes/assumptions/1), what the agents present, in the one total order of R51
(notes/assumptions/2), and what the block has answered (R223). -/
structure State where
  config : Config
  block : Block config
  port : Port config
  /-- the presentations still to come, next first -/
  pending : List (Presentation config)
  /-- the responses so far, newest first -/
  responses : List (Response config)
deriving DecidableEq, Repr

/-- Reasons the machine stops with a fault: there are none. Every fault of the spec is recorded in `FAULT_CAUSE` and
answered, and the machine goes on: "a fault does not stop the block" (R182). -/
inductive Fault where
deriving DecidableEq, Repr

/-- Reasons there is no step. -/
inductive Refusal where
  /-- Raised by an arm of `exec` for an instruction without a meaning; no arm raises it. Safe: the machine stops. -/
  | notModelled (mnemonic : String)
  /-- Raised by fetching: an event agent presents a word that is not its own, which is not a step (R74). Safe. -/
  | noStep (agent : Agent) (word : OpWord)
  /-- Raised by fetching: no agent presents anything; the run has ended (R223). Safe. -/
  | nothingPresented
  /-- Raised by fetching: the parameters are not those of a configuration of the block (R6). Safe. -/
  | notAConfiguration
deriving DecidableEq, Repr

/-- Block reset of the sixteen fields (70_reset_and_hazards.md R210); `x` is the free draw `PHASE_OUT` holds. -/
def Block.reset (c : Config) (x : Drive) : Block c where
  tickCount := 0
  tickEn := false
  capPhase := .awaitingRise
  capPol := .rising
  capRiseTs := 0
  capFallTs := 0
  capPulseWidth := 0
  dbPending := false
  dbPressTs := 0
  actSteps := 0
  actDir := .cw
  actInterval := 0
  actLastTs := 0
  actPhase := 0
  phaseOut := x
  faultCause := 0

/-- A block of configuration `c` at power-on (R210), with the presentations `ps` to come. -/
def State.powerOn (c : Config) (x : Drive) (ps : List (Presentation c)) : State where
  config := c
  block := Block.reset c x
  port := ⟨0, 0, 0⟩
  pending := ps
  responses := []

/-- The machine right after reset: the specified configuration, nothing presented, nothing answered. -/
def State.reset : State := State.powerOn Config.specified Config.phaseOutAtReset []

end Sys2Proof.Machine
end

