-- ==== Sys2Proof/Machine/Operands.lean ====
section
/-! DEFINITION. Operand assembly and the response's value (30_encoding.md R77), and the tick domain's subtraction
(00_scope.md R9). -/

namespace Sys2Proof.Machine

/-- R9: `tsub(a, b) = (a − b) mod 2^TICK_W`. -/
def tsub {w : Nat} (a b : BitVec w) : BitVec w := a - b

/-- R77: `CAP_EDGE`'s operand is a timer sample, `A ≤ TIMER_MAX`. -/
def State.sampleInRange (s : State) : Bool := decide (s.port.a.toNat ≤ s.config.timerMax)

/-- R120: `T = A[TIMER_W-1:0]`. -/
def State.sample (s : State) : BitVec s.config.timerW := s.port.a.setWidth s.config.timerW

/-- R77, R160: no bit of `A` at or above `STEP_W`, and none of `B` at or above `TICK_W`, is 1. -/
def State.targetFits (s : State) : Bool :=
  decide (s.port.a.toNat < 2 ^ s.config.stepW) && decide (s.port.b.toNat < 2 ^ s.config.tickW)

/-- R77: `steps = A[STEP_W-1:0]`. -/
def State.stepsOperand (s : State) : BitVec s.config.stepW := s.port.a.setWidth s.config.stepW

/-- R77: `interval = B[TICK_W-1:0]`. -/
def State.intervalOperand (s : State) : BitVec s.config.tickW := s.port.b.setWidth s.config.tickW

/-- R77: `zext_OPND_W(v)`, the response bus holding `v`. -/
def zextValue (c : Config) {w : Nat} (v : BitVec w) : Response c := .value (v.setWidth c.opndW)

/-- R60: a one-bit answer, zero-extended. -/
def boolValue (c : Config) (v : Bool) : Response c := .value (if v then 1 else 0)

end Sys2Proof.Machine
end

