-- ==== Sys2Proof/Machine/Flags.lean ====
section
/-! DEFINITION. The block's conditions: which edge the capture is armed for, and the elapsed tests of the debounce window
and of the step interval (60_exceptions.md R191). The block has no condition codes (10_state.md R41). -/

namespace Sys2Proof.Machine

/-- R41: the flag `FAULT_CAUSE ≠ 0`. -/
def Block.faulted {c : Config} (b : Block c) : Bool := b.faultCause != 0

/-- R120: the capture is armed for a transition of this polarity. -/
def Block.armedFor {c : Config} (b : Block c) (pol : Polarity) : Bool := b.capPol == pol

/-- R143: more than `DEBOUNCE_WINDOW` ticks, modulo 2^`TICK_W`, lie between the pending edge and the count `n`. -/
def Block.windowElapsed {c : Config} (b : Block c) (n : BitVec c.tickW) : Bool :=
  decide (c.debounceWindow < (tsub n b.dbPressTs).toNat)

/-- R161: at least `ACT_INTERVAL` ticks, modulo 2^`TICK_W`, lie between the last step and the count `n`. -/
def Block.intervalElapsed {c : Config} (b : Block c) (n : BitVec c.tickW) : Bool :=
  decide (b.actInterval.toNat ≤ (tsub n b.actLastTs).toNat)

/-- R161: the actuator is idle. -/
def Block.idle {c : Config} (b : Block c) : Bool := b.actSteps == 0

/-- R142: `BTN_IN = BTN_PRESSED_LEVEL`. -/
def State.pressed (s : State) : Bool := s.port.btnIn == s.config.btnPressedLevel

end Sys2Proof.Machine
end

