-- ==== Sys2Proof/Machine/Ops.lean ====
section
/-! DEFINITION. The operations every meaning is made of: answering, raising a fault (60_exceptions.md R182), and reading
the tick counter through its gate (40_tick.md R101). -/

namespace Sys2Proof.Machine

/-- The state after an operation that leaves the block at `b` and answers `r`. -/
abbrev State.respond (s : State) (b : Block s.config) (r : Response s.config) : State :=
  { s with block := b, responses := r :: s.responses }

/-- R8 `respond`: end the operation, all its field writes taking effect together. -/
def answer (s : State) (b : Block s.config) (r : Response s.config) : Host.Outcome State Fault Refusal :=
  .next (s.respond b r)

/-- R180: the code a cause is recorded as. -/
def Cause.code : Cause → BitVec 8
  | .tickUninit => 1
  | .tickReinit => 2
  | .illegalOp => 3
  | .captureRange => 4

/-- R182: the first fault is kept; later causes are dropped. -/
def Block.recordFault {c : Config} (b : Block c) (cause : Cause) : Block c :=
  if b.faultCause = 0 then { b with faultCause := cause.code } else b

/-- R182 `raise Fault(cause)`: record the cause, write no other field, answer `Fault(cause)`, go on (R187: no state is
saved, no mode changes, and there is nothing to return from). -/
def raiseFault (s : State) (cause : Cause) : Host.Outcome State Fault Refusal :=
  answer s (s.block.recordFault cause) (.fault cause)

/-- R101 `gate_check()`, then the operation's one sample of `TICK_COUNT` (20_memory.md R55). -/
def withTickCount (s : State) (k : BitVec s.config.tickW → Host.Outcome State Fault Refusal) :
    Host.Outcome State Fault Refusal :=
  if s.block.tickEn then k s.block.tickCount else raiseFault s .tickUninit

/-- R181: a Host word that decodes to no operation raises `ILLEGAL_OP` and reads no operand. -/
def illegalWord (s : State) : Host.Outcome State Fault Refusal := raiseFault s .illegalOp

end Sys2Proof.Machine
end

