-- ==== Sys2Proof/Machine/Actuator.lean ====
section
/-! DEFINITION. The Non-Blocking Actuator Scheduler (43_actuator.md). -/

namespace Sys2Proof.Machine

/-- `ACT_SET` (R160). The operands' widths are checked before the gate (60_exceptions.md R184). -/
def execActSet (dir : Direction) (s : State) : Host.Outcome State Fault Refusal :=
  if s.targetFits then
    withTickCount s fun n =>
      answer s
        { s.block with
          actSteps := s.stepsOperand
          actDir := dir
          actInterval := s.intervalOperand
          actLastTs := tsub n s.intervalOperand }
        .none
  else raiseFault s .illegalOp

/-- R162 `next_phase`: +1 modulo 4 for CW, −1 modulo 4 for CCW. -/
def nextPhase (p : PhaseIndex) : Direction → PhaseIndex
  | .cw => p + 1
  | .ccw => p + 3

/-- R161: one step at count `n`. The phase advances before its pattern is driven (R162), all four lines at once (R54). -/
def Block.takeStep {c : Config} (b : Block c) (n : BitVec c.tickW) : Block c :=
  { b with
    actPhase := nextPhase b.actPhase b.actDir
    phaseOut := c.phasePattern.pattern (nextPhase b.actPhase b.actDir)
    actSteps := b.actSteps - 1
    actLastTs := n }

/-- `ACT_UPDATE` (R161, R165). -/
def execActUpdate (s : State) : Host.Outcome State Fault Refusal :=
  if s.block.idle then answer s s.block (boolValue s.config false)
  else
    withTickCount s fun n =>
      if s.block.intervalElapsed n then answer s (s.block.takeStep n) (boolValue s.config true)
      else answer s s.block (boolValue s.config true)

end Sys2Proof.Machine
end

