-- ==== Sys2Proof/Machine/Capture.lean ====
section
/-! DEFINITION. The Capture Edge State Machine (41_capture.md). -/

namespace Sys2Proof.Machine

/-- R122, R123: the pulse width of a rise sample `r` and a fall sample `f`, the source's one-wrap formula as written.
For samples in [0, `TIMER_MAX`] nothing wraps; a state no run reaches wraps modulo 2^`TIMER_W` (notes/assumptions/8). -/
def pulseWidth (c : Config) (r f : BitVec c.timerW) : BitVec c.timerW :=
  if r.toNat ≤ f.toNat then f - r else (BitVec.ofNat c.timerW c.timerMax - r) + f

/-- `rise_transition(T)` (R121). -/
def Block.riseTransition {c : Config} (b : Block c) (t : BitVec c.timerW) : Block c :=
  { b with capRiseTs := t, capPol := .falling, capPhase := .awaitingFall }

/-- `fall_transition(T)` (R122). -/
def Block.fallTransition {c : Config} (b : Block c) (t : BitVec c.timerW) : Block c :=
  { b with
    capFallTs := t
    capPulseWidth := pulseWidth c b.capRiseTs t
    capPol := .rising
    capPhase := .awaitingRise }

/-- R120: the transition an armed edge takes. -/
def Block.captureTransition {c : Config} (b : Block c) (t : BitVec c.timerW) : Block c :=
  match b.capPhase with
  | .awaitingRise => b.riseTransition t
  | .awaitingFall => b.fallTransition t

/-- `CAP_EDGE` (R120). The range is checked before the polarity. -/
def execCapEdge (pol : Polarity) (s : State) : Host.Outcome State Fault Refusal :=
  if s.sampleInRange then
    if s.block.armedFor pol then answer s (s.block.captureTransition s.sample) .none
    else answer s s.block .none
  else raiseFault s .captureRange

/-- R125: `floor(CAP_PULSE_WIDTH / DIST_DIV)`. -/
def distance (c : Config) (width : BitVec c.timerW) : Nat := width.toNat / c.distDiv

/-- `DIST_NOW` (R125). -/
def execDistNow (s : State) : Host.Outcome State Fault Refusal :=
  answer s s.block (.value (BitVec.ofNat s.config.opndW (distance s.config s.block.capPulseWidth)))

end Sys2Proof.Machine
end

