-- ==== Sys2Proof/Machine/Debounce.lean ====
section
/-! DEFINITION. The Debounce State Machine (42_debounce.md). -/

namespace Sys2Proof.Machine

/-- `BTN_EDGE` (R140): recorded when Idle, overwritten when already Pending. -/
def execBtnEdge (s : State) : Host.Outcome State Fault Refusal :=
  withTickCount s fun n => answer s { s.block with dbPressTs := n, dbPending := true } .none

/-- `BTN_POLL` (R142). An accepted press also sets `TICK_COUNT` to 0, in the same step (R144). -/
def execBtnPoll (s : State) : Host.Outcome State Fault Refusal :=
  if s.block.dbPending then
    withTickCount s fun n =>
      if s.block.windowElapsed n then
        if s.pressed then
          answer s { s.block with dbPending := false, tickCount := 0 } (boolValue s.config true)
        else answer s { s.block with dbPending := false } (boolValue s.config false)
      else answer s s.block (boolValue s.config false)
  else answer s s.block (boolValue s.config false)

end Sys2Proof.Machine
end

