-- ==== Sys2Proof/Machine/Tick.lean ====
section
/-! DEFINITION. The Monotonic Tick Source (40_tick.md). -/

namespace Sys2Proof.Machine

/-- `TICK` (R100). A tick while the gate is closed has no effect. -/
def execTick (s : State) : Host.Outcome State Fault Refusal :=
  if s.block.tickEn then answer s { s.block with tickCount := s.block.tickCount + 1 } .none
  else answer s s.block .none

/-- `TICK_INIT` (R102, R103). -/
def execTickInit (s : State) : Host.Outcome State Fault Refusal :=
  if s.block.tickEn then raiseFault s .tickReinit
  else answer s { s.block with tickCount := 0, tickEn := true } .none

/-- `TICK_NOW` (R104). -/
def execTickNow (s : State) : Host.Outcome State Fault Refusal :=
  withTickCount s fun n => answer s s.block (zextValue s.config n)

/-- `TICK_RESET` (R106). -/
def execTickReset (s : State) : Host.Outcome State Fault Refusal :=
  withTickCount s fun _ => answer s { s.block with tickCount := 0 } .none

end Sys2Proof.Machine
end

