-- ==== Sys2Proof/Machine/Dispatch.lean ====
section
/-! DEFINITION. One arm per operation. -/

namespace Sys2Proof.Machine

/-- The meaning of an operation, over the state whose port holds its operands. -/
def exec (i : Instr) (s : State) : Host.Outcome State Fault Refusal :=
  match i with
  | .tick => Sys2Proof.Machine.execTick s
  | .capEdge pol => Sys2Proof.Machine.execCapEdge pol s
  | .btnEdge => Sys2Proof.Machine.execBtnEdge s
  | .tickInit => Sys2Proof.Machine.execTickInit s
  | .tickNow => Sys2Proof.Machine.execTickNow s
  | .tickReset => Sys2Proof.Machine.execTickReset s
  | .distNow => Sys2Proof.Machine.execDistNow s
  | .btnPoll => Sys2Proof.Machine.execBtnPoll s
  | .actSet dir => Sys2Proof.Machine.execActSet dir s
  | .actUpdate => Sys2Proof.Machine.execActUpdate s

end Sys2Proof.Machine
end

