-- ==== Sys2Proof/Machine/Fetch.lean ====
section
/-! DEFINITION. What the next step runs: the first pending presentation, admitted (30_encoding.md R74, R75). The block
fetches nothing from memory (20_memory.md R59, R63). -/

namespace Sys2Proof.Machine

/-- What the next presentation is. -/
inductive Fetched where
  /-- run `i` on the state whose port holds its operands -/
  | operation (i : Instr) (s : State)
  /-- a Host word that is ILLEGAL -/
  | illegal (s : State)
  /-- no step -/
  | refused (r : Refusal)
deriving DecidableEq, Repr

/-- The state in which presentation `p` is being run and `rest` is still to come: A, B and `BTN_IN` are `p`'s (R71). -/
abbrev State.latch (s : State) (p : Presentation s.config) (rest : List (Presentation s.config)) : State :=
  { s with port := ⟨p.a, p.b, p.btnIn⟩, pending := rest }

/-- R10, R74: take the next presentation of the total order (R51). -/
def fetch (s : State) : Fetched :=
  if s.config.wf then
    match s.pending with
    | [] => .refused .nothingPresented
    | p :: rest =>
      match admission p.agent p.word with
      | .operation i => .operation i (s.latch p rest)
      | .illegal => .illegal (s.latch p rest)
      | .noStep => .refused (.noStep p.agent p.word)
  else .refused .notAConfiguration

/-- The agent on whose input a raw word is presented when none is named: an event word comes from its own agent, every
other word from the Host (R79, R80). -/
def agentOfWord (w : OpWord) : Agent :=
  match decode w with
  | some i => i.agent
  | none => .host

/-- A raw word with A = B = 0 (R80 `.word`) and `BTN_IN` at the level the port last saw. -/
def State.rawPresentation (s : State) (w : OpWord) : Presentation s.config :=
  ⟨agentOfWord w, w, 0, 0, s.port.btnIn⟩

/-- The same machine with `p` presented next. -/
abbrev State.presentNext (s : State) (p : Presentation s.config) : State := { s with pending := p :: s.pending }

end Sys2Proof.Machine
end

