-- ==== Sys2Proof/Machine/Step.lean ====
section
/-! DEFINITION. One step of the block: one operation, whole (20_memory.md R51). -/

namespace Sys2Proof.Machine

/-- R10's `step`, on the next presentation. -/
def step (s : State) : Host.Outcome State Fault Refusal :=
  match fetch s with
  | .operation i s' => exec i s'
  | .illegal s' => illegalWord s'
  | .refused r => .refused r

/-- `s` with the word `w` presented next by the agent it belongs to, operands 0 (notes/assumptions/4). -/
def State.withFetchWord (s : State) (nbits w : Nat) : State :=
  s.presentNext (s.rawPresentation (BitVec.ofNat 8 (w % 2 ^ nbits)))

end Sys2Proof.Machine
end

