-- ==== Sys2Proof/Machine/Assembler.lean ====
section
/-! DEFINITION. The assembler form of operations and the test-script lines (30_encoding.md R79, R80), turned into
presentations. Host-side control flow (R81) is no operation of the block and belongs to the Host's own program. -/

namespace Sys2Proof.Machine

/-- One line of a script, read (R79, R80). -/
inductive ScriptLine where
  /-- a line that is empty or only a comment -/
  | blank
  /-- an operation, with the agent that presents it and the numbers on A and B -/
  | operation (agent : Agent) (i : Instr) (a b : Nat)
  /-- `ticks n` -/
  | ticks (n : Nat)
  /-- `pin BTN_IN = v` -/
  | pin (level : Level)
  /-- `.word n` -/
  | word (w : OpWord)
deriving DecidableEq, Repr

/-! ### Reading a line -/

/-- R79: `;` starts a comment. -/
def dropComment : List Char → List Char
  | [] => []
  | ch :: rest => if ch = ';' then [] else ch :: dropComment rest

/-- The token read so far, if any, before the tokens after it. -/
def flush (cur : List Char) (rest : List String) : List String :=
  if cur.isEmpty then rest else String.ofList cur.reverse :: rest

/-- The tokens of a line: `,`, `=`, `[` and `]` stand alone, blanks separate. `cur` is the token being read, reversed. -/
def tokens (cur : List Char) : List Char → List String
  | [] => flush cur []
  | ch :: rest =>
    if ch = ' ' || ch = '\t' then flush cur (tokens [] rest)
    else if ch = ',' || ch = '=' || ch = '[' || ch = ']' then flush cur (String.ofList [ch] :: tokens [] rest)
    else tokens (ch :: cur) rest

/-- The value of a digit, in any base up to sixteen. -/
def digitValue (ch : Char) : Option Nat :=
  let n := ch.toNat
  if 48 ≤ n ∧ n ≤ 57 then some (n - 48)
  else if 97 ≤ n ∧ n ≤ 102 then some (n - 87)
  else if 65 ≤ n ∧ n ≤ 70 then some (n - 55)
  else none

/-- Digits in the given base, most significant first, after the value `acc`. -/
def digits (base acc : Nat) : List Char → Option Nat
  | [] => some acc
  | ch :: rest =>
    match digitValue ch with
    | some d => if d < base then digits base (acc * base + d) rest else none
    | none => none

/-- R79: numbers are decimal unless written `0x`. -/
def number (token : String) : Option Nat :=
  match token.toList with
  | [] => none
  | '0' :: 'x' :: ch :: rest => digits 16 0 (ch :: rest)
  | ch :: rest => digits 10 0 (ch :: rest)

/-- The agents' names, as a bracketed agent prefix writes them (R79). -/
def agentNamed (token : String) : Option Agent :=
  match token with
  | "TickIRQ" => some .tickIRQ
  | "CaptureIRQ" => some .captureIRQ
  | "ButtonIRQ" => some .buttonIRQ
  | "Host" => some .host
  | _ => none

/-- An operation's form (R79), or the pseudo-operation `act.cancel` (R80): the operation and the numbers on A and B. -/
def operationForm (ts : List String) : Option (Instr × Nat × Nat) :=
  match ts with
  | ["tick"] => some (.tick, 0, 0)
  | ["cap.edge", "rise", ",", t] => (number t).map fun n => (.capEdge .rising, n, 0)
  | ["cap.edge", "fall", ",", t] => (number t).map fun n => (.capEdge .falling, n, 0)
  | ["btn.edge"] => some (.btnEdge, 0, 0)
  | ["tick.init"] => some (.tickInit, 0, 0)
  | ["tick.now"] => some (.tickNow, 0, 0)
  | ["tick.reset"] => some (.tickReset, 0, 0)
  | ["dist.now"] => some (.distNow, 0, 0)
  | ["btn.poll"] => some (.btnPoll, 0, 0)
  | ["act.set", "cw", ",", k, ",", v] =>
    (number k).bind fun steps => (number v).map fun interval => (.actSet .cw, steps, interval)
  | ["act.set", "ccw", ",", k, ",", v] =>
    (number k).bind fun steps => (number v).map fun interval => (.actSet .ccw, steps, interval)
  | ["act.update"] => some (.actUpdate, 0, 0)
  | ["act.cancel"] => some (.actSet .cw, 0, 0)
  | _ => none

/-- A line's tokens as a script line (R79, R80). Without a prefix an operation is presented by its own agent. -/
def lineForm (ts : List String) : Option ScriptLine :=
  match ts with
  | [] => some .blank
  | ["ticks", n] => (number n).map .ticks
  | ["pin", "BTN_IN", "=", "0"] => some (.pin 0)
  | ["pin", "BTN_IN", "=", "1"] => some (.pin 1)
  | [".word", n] => (number n).bind fun w => if w < 2 ^ 8 then some (.word (BitVec.ofNat 8 w)) else none
  | "[" :: name :: "]" :: rest =>
    (agentNamed name).bind fun agent => (operationForm rest).map fun (i, a, b) => .operation agent i a b
  | _ => (operationForm ts).map fun (i, a, b) => .operation i.agent i a b

/-- One written line, read. -/
def readLine (line : String) : Option ScriptLine := lineForm (tokens [] (dropComment line.toList))

/-! ### From lines to presentations -/

/-- A number on an operand bus; a number wider than the bus has no place on it. -/
def onBus (c : Config) (n : Nat) : Option (BitVec c.opndW) :=
  if n < 2 ^ c.opndW then some (BitVec.ofNat c.opndW n) else none

/-- The presentations of the lines (R80), with `BTN_IN` at `level` until a `pin` line sets it. R80 fixes only what the next
`btn.poll` samples; the level is kept until the next `pin` line (notes/assumptions/10, DEDUCED from program P2). -/
def assemble (c : Config) (level : Level) : List ScriptLine → Option (List (Presentation c))
  | [] => some []
  | .blank :: rest => assemble c level rest
  | .pin v :: rest => assemble c v rest
  | .ticks n :: rest => (assemble c level rest).map fun ps => List.replicate n (Instr.tick.present 0 0 level) ++ ps
  | .word w :: rest => (assemble c level rest).map fun ps => ⟨.host, w, 0, 0, level⟩ :: ps
  | .operation agent i a b :: rest =>
    (onBus c a).bind fun va => (onBus c b).bind fun vb =>
      (assemble c level rest).map fun ps => ⟨agent, encode i, va, vb, level⟩ :: ps

/-- A written script, as the presentations it stands for. -/
def assembleText (c : Config) (level : Level) (lines : List String) : Option (List (Presentation c)) :=
  (lines.mapM readLine).bind (assemble c level)

end Sys2Proof.Machine
end

