-- ==== Sys2Proof/Safety.lean ====
section
/-! DEFINITION. What claims are stated in: runs (70_reset_and_hazards.md R223), what the next step is about to do, the
invariants of 10_state.md R40, and the duties of 60_exceptions.md R196. -/

namespace Sys2Proof.Machine

/-! ### Runs -/

/-- `n` steps of a run (R223). -/
def stepN : Nat → State → Host.Outcome State Fault Refusal
  | 0, s => .next s
  | n + 1, s =>
    match step s with
    | .next t => stepN n t
    | .fault r => .fault r
    | .refused r => .refused r

/-- How many of the first `n` steps of a run start in a state that meets `P`. -/
def countAlong (P : State → Bool) : Nat → State → Nat
  | 0, _ => 0
  | n + 1, s =>
    (if P s then 1 else 0) +
      match step s with
      | .next t => countAlong P n t
      | .fault _ | .refused _ => 0

/-- The observation of a run's final state: the block's fields and the responses, oldest first (R223). -/
def State.observation (s : State) : Block s.config × List (Response s.config) := (s.block, s.responses.reverse)

/-- The newest response, where it is a value. -/
def State.lastValue (s : State) : Option Nat :=
  match s.responses with
  | .value v :: _ => some v.toNat
  | _ => none

/-- The newest response, where it is a fault. -/
def State.lastFault (s : State) : Option Cause :=
  match s.responses with
  | .fault cause :: _ => some cause
  | _ => none

/-- The cause a response reports, if it is a fault. -/
def Response.cause? {c : Config} : Response c → Option Cause
  | .fault cause => .some cause
  | .none | .value _ => .none

/-- The cause of the first fault among responses, oldest first (R37). -/
def firstCause {c : Config} (rs : List (Response c)) : Option Cause := rs.findSome? Response.cause?

/-- The state after an operation of `s` that raises `cause` (R182). -/
abbrev State.faulting (s : State) (cause : Cause) : State := s.respond (s.block.recordFault cause) (.fault cause)

/-- R182: a claim's run ends with `FAULT_CAUSE = 0`. -/
def State.faultFree (s : State) : Bool := !s.block.faulted

/-! ### What the next step is about to do -/

/-- The next step runs the operation `i`. -/
def State.nextIs (i : Instr) (s : State) : Bool :=
  match fetch s with
  | .operation j _ => j == i
  | .illegal _ | .refused _ => false

/-- The next step runs `ACT_SET`, in either direction. -/
def State.setsTarget (s : State) : Bool := s.nextIs (.actSet .cw) || s.nextIs (.actSet .ccw)

/-- The next step is a `BTN_POLL` that resolves the pending record (R142, R145). -/
def State.resolvesRecord (s : State) : Bool :=
  s.nextIs .btnPoll && s.block.dbPending && s.block.tickEn && s.block.windowElapsed s.block.tickCount

/-- The next presentation samples `BTN_IN` at the pressed level. -/
def State.pressedNext (s : State) : Bool :=
  match s.pending with
  | p :: _ => p.btnIn == s.config.btnPressedLevel
  | [] => false

/-- The next step is a `BTN_POLL` that accepts a press (R142). -/
def State.acceptsPress (s : State) : Bool := s.resolvesRecord && s.pressedNext

/-- The next step sets `TICK_COUNT` to 0 or tries to: `TICK_INIT`, `TICK_RESET` or an accepting `BTN_POLL` (R105). -/
def State.resetsCount (s : State) : Bool := s.nextIs .tickInit || s.nextIs .tickReset || s.acceptsPress

/-- The next step is an `ACT_UPDATE` that takes a step of the actuator (R161). -/
def State.takesStep (s : State) : Bool :=
  s.nextIs .actUpdate && !s.block.idle && s.block.tickEn && s.block.intervalElapsed s.block.tickCount

/-- The next step is a falling transition of the capture input, with a sample in range (R124). -/
def State.fallsNext (s : State) : Bool :=
  match fetch s with
  | .operation (.capEdge .falling) t => t.sampleInRange
  | _ => false

/-- The next step keeps to the duties of R196 and the encoding of R76, so it is not misuse: its word is legal, a counter
operation comes after `TICK_INIT`, `TICK_INIT` comes once, samples are in range and target operands fit their fields. -/
def State.meetsDuties (s : State) : Bool :=
  match fetch s with
  | .operation i t =>
    match i with
    | .tick | .distNow | .btnPoll | .actUpdate => true
    | .capEdge _ => t.sampleInRange
    | .tickInit => !t.block.tickEn
    | .btnEdge | .tickNow | .tickReset => t.block.tickEn
    | .actSet _ => t.targetFits && t.block.tickEn
  | .illegal _ | .refused _ => false

/-- The next step breaks a duty. -/
def State.breaksDuty (s : State) : Bool := !s.meetsDuties

/-! ### Invariants -/

/-- The invariants of R40 (its item 4 is the width of `actPhase`), and R180's "codes 5 to 255 are never written". -/
structure Block.Inv {c : Config} (b : Block c) : Prop where
  /-- R40.1: `CAP_POL = CAP_PHASE`, as encoded. -/
  armed : b.capPol = .falling ↔ b.capPhase = .awaitingFall
  /-- R40.2 -/
  pendingGated : b.dbPending = true → b.tickEn = true
  /-- R40.3 -/
  movingGated : b.actSteps ≠ 0 → b.tickEn = true
  /-- R40.5 -/
  riseInRange : b.capRiseTs.toNat ≤ c.timerMax
  /-- R40.5 -/
  fallInRange : b.capFallTs.toNat ≤ c.timerMax
  /-- R40.6 -/
  widthInRange : b.capPulseWidth.toNat ≤ c.timerMax
  /-- R180 -/
  knownCause : b.faultCause.toNat ≤ 4

/-- The invariant of a state is its block's. -/
def State.Inv (s : State) : Prop := s.block.Inv

/-! ### Views, to compare blocks of two states -/

/-- The capture sub-block's five fields. -/
def Block.captureView {c : Config} (b : Block c) : CapPhase × Polarity × Nat × Nat × Nat :=
  (b.capPhase, b.capPol, b.capRiseTs.toNat, b.capFallTs.toNat, b.capPulseWidth.toNat)

/-- The debounce sub-block's two fields. -/
def Block.debounceView {c : Config} (b : Block c) : Bool × Nat := (b.dbPending, b.dbPressTs.toNat)

/-- The actuator sub-block's fields and its output. -/
def Block.actuatorView {c : Config} (b : Block c) : Nat × Direction × Nat × Nat × PhaseIndex × Drive :=
  (b.actSteps.toNat, b.actDir, b.actInterval.toNat, b.actLastTs.toNat, b.actPhase, b.phaseOut)

/-- The tick source's two fields. -/
def Block.tickView {c : Config} (b : Block c) : Nat × Bool := (b.tickCount.toNat, b.tickEn)

end Sys2Proof.Machine
end

