-- ==== Sys2Proof/Certificates/Slice0/Obligations.lean ====
section
/-! DEFINITION. The statements for the provers. Each says which rule of the spec it formalises. `s.respond b r` is the
state `s` with the block `b` and one more response `r`, and nothing else changed: an equation `exec i s = .next (s.respond b r)`
therefore gives the operation's frame with its result. -/

open Sys2Proof Sys2Proof.Machine

/-! ### Encoding and admission (30_encoding.md) -/

/-- R72: the twelve words of the opcode map, written bit by bit from its columns, decode to their operations. -/
def Obligations.SpecWordsDecode : Prop :=
  decode 0b00000000#8 = some .tick ∧
  decode 0b00000001#8 = some (.capEdge .rising) ∧
  decode 0b00010001#8 = some (.capEdge .falling) ∧
  decode 0b00000010#8 = some .btnEdge ∧
  decode 0b00001000#8 = some .tickInit ∧
  decode 0b00001001#8 = some .tickNow ∧
  decode 0b00001010#8 = some .tickReset ∧
  decode 0b00001011#8 = some .distNow ∧
  decode 0b00001100#8 = some .btnPoll ∧
  decode 0b00001101#8 = some (.actSet .cw) ∧
  decode 0b00011101#8 = some (.actSet .ccw) ∧
  decode 0b00001110#8 = some .actUpdate

/-- R72 and opcode_table.json: for every word, the rows of the table that hold it are exactly the one row its decoding
names, or none: no two rows overlap and no legal word is missing. -/
def Obligations.DecoderFollowsTheOpcodeTable : Prop :=
  ∀ w : OpWord, ((opcodeTable.filter (·.holds w)).map (·.mnemonic)) = ((decode w).toList.map Instr.mnemonic)

/-- R70 to R73: decoding and encoding are inverse, in both directions, and a presented operation with any operands is
taken whole: the word decodes to the operation and A, B and `BTN_IN` reach the port bit for bit. -/
def Obligations.PresentedOperationsRoundTrip : Prop :=
  (∀ (w : OpWord) (i : Instr), decode w = some i ↔ encode i = w) ∧
  ∀ (s : State) (i : Instr) (a b : BitVec s.config.opndW) (v : Level) (rest : List (Presentation s.config)),
    s.config.wf = true → s.pending = i.present a b v :: rest →
    fetch s = .operation i { s with port := ⟨a, b, v⟩, pending := rest }

/-- R73. -/
def Obligations.SelectorBitIsDecoded : Prop :=
  ∀ w : OpWord,
    match decode w with
    | some (.capEdge pol) =>
      (pol = .rising ↔ w.extractLsb' 4 1 = 0) ∧ (pol = .falling ↔ w.extractLsb' 4 1 = 1)
    | some (.actSet dir) =>
      (dir = .cw ↔ w.extractLsb' 4 1 = 0) ∧ (dir = .ccw ↔ w.extractLsb' 4 1 = 1)
    | some _ => w.extractLsb' 4 1 = 0
    | none => True

/-- R74: the (agent, word) pairs that are steps; a pair of an event agent that is not listed has no step and is refused;
every (Host, word) pair is a step. -/
def Obligations.AgentsPresentOnlyTheirOwnWords : Prop :=
  (∀ w : OpWord,
    (admission .tickIRQ w ≠ .noStep ↔ w = 0x00) ∧
    (admission .captureIRQ w ≠ .noStep ↔ w = 0x01 ∨ w = 0x11) ∧
    (admission .buttonIRQ w ≠ .noStep ↔ w = 0x02) ∧
    admission .host w ≠ .noStep) ∧
  ∀ (s : State) (p : Presentation s.config) (rest : List (Presentation s.config)),
    s.config.wf = true → s.pending = p :: rest →
    (p.agent.mayPresent p.word = false → step s = .refused (.noStep p.agent p.word)) ∧
    (p.agent = .host → ∃ t, step s = .next t)

/-- R75: `decode_host`, case by case, and what an ILLEGAL result does. -/
def Obligations.HostDecodingFollowsTheCaseTable : Prop :=
  (∀ w : OpWord,
    let sel := w.extractLsb' 4 1
    admission .host w =
      if w.extractLsb' 5 3 ≠ 0 then .illegal
      else match (w.extractLsb' 0 4).toNat with
        | 0x8 => if sel = 0 then .operation .tickInit else .illegal
        | 0x9 => if sel = 0 then .operation .tickNow else .illegal
        | 0xA => if sel = 0 then .operation .tickReset else .illegal
        | 0xB => if sel = 0 then .operation .distNow else .illegal
        | 0xC => if sel = 0 then .operation .btnPoll else .illegal
        | 0xD => .operation (.actSet (if sel = 0 then .cw else .ccw))
        | 0xE => if sel = 0 then .operation .actUpdate else .illegal
        | _ => .illegal) ∧
  ∀ (s : State) (p : Presentation s.config) (rest : List (Presentation s.config)),
    s.config.wf = true → s.pending = p :: rest → admission p.agent p.word = .illegal →
    step s = .next ((s.latch p rest).faulting .illegalOp)

/-- R76, R181: the Host words that are illegal are exactly those of the rule's four lists, and each faults with
`ILLEGAL_OP`, whatever the operands, and changes no field but `FAULT_CAUSE`. -/
def Obligations.IllegalHostWordsFault : Prop :=
  (∀ w : OpWord, admission .host w = .illegal ↔
    w.extractLsb' 5 3 ≠ 0 ∨
    (w.extractLsb' 0 4).toNat ∈ [0x3, 0x4, 0x5, 0x6, 0x7, 0xF] ∨
    (w.extractLsb' 0 4).toNat ∈ [0x0, 0x1, 0x2] ∨
    (w.extractLsb' 4 1 = 1 ∧ (w.extractLsb' 0 4).toNat ∉ [0x1, 0xD])) ∧
  ∀ (s : State) (p : Presentation s.config) (rest : List (Presentation s.config)),
    s.config.wf = true → s.pending = p :: rest → p.agent = .host → admission .host p.word = .illegal →
    ∃ b : Block s.config, step s = .next ((s.latch p rest).respond b (.fault .illegalOp)) ∧
      b = { s.block with faultCause := b.faultCause } ∧
      b.faultCause = if s.block.faultCause = 0 then 3 else s.block.faultCause

/-- A step runs the decoded operation (R10, R51, R71): when the next presentation's word decodes to an operation of the
presenting agent, the step is that operation's meaning with the presentation's operands on the port. The pending list and
the port are the model's representation of R10's arguments (notes/assumptions/2 and 3, DESIGN CHOICE). -/
def Obligations.StepRunsTheDecodedOperation : Prop :=
  ∀ (s : State) (p : Presentation s.config) (rest : List (Presentation s.config)) (i : Instr),
    s.config.wf = true → s.pending = p :: rest → decode p.word = some i → p.agent = i.agent →
    step s = exec i { s with port := ⟨p.a, p.b, p.btnIn⟩, pending := rest }

/-- R6: exactly the configurations within the listed constraints are configurations of the block, and on any other the
model refuses every step. -/
def Obligations.IllFormedConfigurationsAreRefused : Prop :=
  (∀ c : Config, c.wf = true ↔
    (1 ≤ c.tickW ∧ 1 ≤ c.timerW ∧ 1 ≤ c.stepW) ∧ (1 ≤ c.timerMax ∧ c.timerMax ≤ 2 ^ c.timerW - 1) ∧
    1 ≤ c.distDiv ∧ c.debounceWindow ≤ 2 ^ c.tickW - 1) ∧
  (∀ (c : Config) (p : PhaseIndex), c.btnPressedLevel.toNat ∈ [0, 1] ∧ (c.phasePattern.pattern p).toNat ≤ 15) ∧
  ∀ s : State, s.config.wf = false → step s = .refused .notAConfiguration

/-! ### Faults (60_exceptions.md) -/

/-- R180, R182: raising a fault records the cause's code if none is recorded, writes no other field, answers the fault,
and goes on. -/
def Obligations.RaisingAFaultKeepsTheFirstCause : Prop :=
  (∀ (s : State) (cause : Cause), raiseFault s cause =
    .next (s.respond
      { s.block with faultCause := if s.block.faultCause = 0 then cause.code else s.block.faultCause } (.fault cause))) ∧
  Cause.code .tickUninit = 1 ∧ Cause.code .tickReinit = 2 ∧ Cause.code .illegalOp = 3 ∧ Cause.code .captureRange = 4

/-- R37: in every run from block reset, `FAULT_CAUSE` is the code of the first fault the run answered, or 0. -/
def Obligations.FaultCauseRecordsTheFirstFaultOfARun : Prop :=
  ∀ (c : Config) (x : Drive) (ps : List (Presentation c)) (n : Nat) (t : State),
    stepN n (State.powerOn c x ps) = .next t →
    t.block.faultCause = match firstCause t.observation.2 with
      | some cause => cause.code
      | none => 0

/-- R182: whatever operation faults, every field but `FAULT_CAUSE` is as before it. -/
def Obligations.FaultsArePrecise : Prop :=
  ∀ (s t : State) (cause : Cause), step s = .next t → t.lastFault = some cause →
    t.block.tickView = s.block.tickView ∧ t.block.captureView = s.block.captureView ∧
    t.block.debounceView = s.block.debounceView ∧ t.block.actuatorView = s.block.actuatorView ∧
    t.block.faultCause = if s.block.faultCause = 0 then cause.code else s.block.faultCause

/-- R184: decode is checked first, then the operand's range, then the gate; only the first that applies is raised. -/
def Obligations.FaultConditionsAreCheckedInOrder : Prop :=
  (∀ (s : State) (p : Presentation s.config) (rest : List (Presentation s.config)),
    s.config.wf = true → s.pending = p :: rest → p.agent = .host → decode p.word = none →
    step s = .next ((s.latch p rest).faulting .illegalOp)) ∧
  (∀ (s : State) (dir : Direction),
    2 ^ s.config.stepW ≤ s.port.a.toNat ∨ 2 ^ s.config.tickW ≤ s.port.b.toNat →
    exec (.actSet dir) s = .next (s.faulting .illegalOp)) ∧
  (∀ (s : State) (pol : Polarity), s.config.timerMax < s.port.a.toNat →
    exec (.capEdge pol) s = .next (s.faulting .captureRange)) ∧
  (∀ (s : State) (dir : Direction),
    s.port.a.toNat < 2 ^ s.config.stepW → s.port.b.toNat < 2 ^ s.config.tickW → s.block.tickEn = false →
    exec (.actSet dir) s = .next (s.faulting .tickUninit))

/-- R10, R182: `step` is total on what the agents may present: it answers, with a fault or without, and a fault recorded
earlier stops nothing. -/
def Obligations.EveryAdmittedPresentationIsAnswered : Prop :=
  ∀ (s : State) (p : Presentation s.config) (rest : List (Presentation s.config)),
    s.config.wf = true → s.pending = p :: rest → p.agent.mayPresent p.word = true →
    ∃ (b : Block s.config) (r : Response s.config), step s = .next ((s.latch p rest).respond b r)

/-- A step takes exactly one presentation, gives exactly one response, writes the block, and leaves the configuration, the
presentations after it and the responses before it alone. That a step is one operation with one response is R10 and R51.
The form of the conclusion is the model's representation, no rule of the spec: the configuration carried in State
(notes/assumptions/1), the pending list (2), the operands still on the port after the step (3) and the list of responses
(9), each a DESIGN CHOICE. -/
def Obligations.EachStepTakesOnePresentation : Prop :=
  ∀ s t : State, step s = .next t →
    ∃ (p : Presentation s.config) (rest : List (Presentation s.config)) (b : Block s.config) (r : Response s.config),
      s.pending = p :: rest ∧
      t = { config := s.config, block := b, port := ⟨p.a, p.b, p.btnIn⟩, pending := rest, responses := r :: s.responses }

/-- R52, R186: whatever the agents have presented can be taken in every order, each order is a run of one step for each
presentation, and no step of it stops. An order is a pending list, the model's representation (notes/assumptions/2, DESIGN
CHOICE). -/
def Obligations.EveryInterleavingRuns : Prop :=
  ∀ (s : State) (order : List (Presentation s.config)),
    s.config.wf = true → (∀ p ∈ s.pending, p.wf = true) → order.Perm s.pending →
    ∃ t, stepN order.length { s with pending := order } = .next t ∧ t.pending = [] ∧
      t.responses.length = s.responses.length + s.pending.length

/-- R22's "written by" column: each field of the block is written only by the operations the table lists for it, and
`FAULT_CAUSE` only by an operation that faults. An operation writes nothing of the state but the block and one response. -/
def Obligations.FieldsAreWrittenOnlyByListedOperations : Prop :=
  ∀ (i : Instr) (s t : State), exec i s = .next t →
    ∃ (b : Block s.config) (r : Response s.config), t = s.respond b r ∧
      (i ∉ [.tick, .tickInit, .tickReset, .btnPoll] → b.tickCount = s.block.tickCount) ∧
      (i ≠ .tickInit → b.tickEn = s.block.tickEn) ∧
      (i ∉ [.capEdge .rising, .capEdge .falling] →
        b.capPhase = s.block.capPhase ∧ b.capPol = s.block.capPol ∧ b.capRiseTs = s.block.capRiseTs ∧
        b.capFallTs = s.block.capFallTs ∧ b.capPulseWidth = s.block.capPulseWidth) ∧
      (i ∉ [.btnEdge, .btnPoll] → b.dbPending = s.block.dbPending) ∧
      (i ≠ .btnEdge → b.dbPressTs = s.block.dbPressTs) ∧
      (i ∉ [.actSet .cw, .actSet .ccw, .actUpdate] →
        b.actSteps = s.block.actSteps ∧ b.actLastTs = s.block.actLastTs) ∧
      (i ∉ [.actSet .cw, .actSet .ccw] → b.actDir = s.block.actDir ∧ b.actInterval = s.block.actInterval) ∧
      (i ≠ .actUpdate → b.actPhase = s.block.actPhase ∧ b.phaseOut = s.block.phaseOut) ∧
      (b.faultCause = s.block.faultCause ∨ ∃ cause, r = .fault cause ∧ b = s.block.recordFault cause)

/-- R39: a field changes only under the agents that own or write it: the capture fields under CaptureIRQ, the actuator
and its output under the Host, `TICK_EN` under the Host; `DB_PENDING` is set under ButtonIRQ and cleared under the Host;
`DB_PRESS_TS` is written under ButtonIRQ; `TICK_COUNT` under TickIRQ or the Host. -/
def Obligations.FieldsChangeOnlyUnderTheirOwners : Prop :=
  ∀ (s t : State) (p : Presentation s.config) (rest : List (Presentation s.config)),
    s.pending = p :: rest → step s = .next t →
    (p.agent ≠ .captureIRQ → t.block.captureView = s.block.captureView) ∧
    (p.agent ≠ .host → t.block.actuatorView = s.block.actuatorView ∧ t.block.tickEn = s.block.tickEn) ∧
    (p.agent ∉ [.tickIRQ, .host] → t.block.tickCount.toNat = s.block.tickCount.toNat) ∧
    (p.agent ≠ .buttonIRQ → t.block.dbPressTs.toNat = s.block.dbPressTs.toNat) ∧
    (s.block.dbPending = false → t.block.dbPending = true → p.agent = .buttonIRQ) ∧
    (s.block.dbPending = true → t.block.dbPending = false → p.agent = .host)

/-- R71, R77, R38: operands an operation does not use are ignored, whatever their value. Only `CAP_EDGE` and `ACT_SET`
read A, only `ACT_SET` reads B, only `BTN_POLL` reads `BTN_IN`: with anything else on the port, the block and the response
are the same. -/
def Obligations.UnusedOperandsAreIgnored : Prop :=
  ∀ (i : Instr) (s t : State) (q : Port s.config), exec i s = .next t →
    (i ∈ [.capEdge .rising, .capEdge .falling, .actSet .cw, .actSet .ccw] → q.a = s.port.a) →
    (i ∈ [.actSet .cw, .actSet .ccw] → q.b = s.port.b) →
    (i = .btnPoll → q.btnIn = s.port.btnIn) →
    ∃ (b : Block s.config) (r : Response s.config), t = s.respond b r ∧
      exec i { s with port := q } = .next (State.respond { s with port := q } b r)

/-! ### Tick source (40_tick.md) -/

/-- R100. -/
def Obligations.TickCountsOncePerEventWhileGateOpen : Prop :=
  (∀ (agent : Agent) (w : OpWord), admission agent w = .operation .tick ↔ agent = .tickIRQ ∧ w = 0x00) ∧
  ∀ s : State,
    (s.block.tickEn = false → exec .tick s = .next (s.respond s.block .none)) ∧
    (s.block.tickEn = true → ∃ n : BitVec s.config.tickW,
      exec .tick s = .next (s.respond { s.block with tickCount := n } .none) ∧
      n.toNat = (s.block.tickCount.toNat + 1) % 2 ^ s.config.tickW ∧
      (s.block.tickCount.toNat = 2 ^ s.config.tickW - 1 → n = 0))

/-- R101: while the gate is closed, every operation that reads or writes `TICK_COUNT` raises `TICK_UNINIT` and does
nothing else; `TICK` and `TICK_INIT` are exempt; the paths of `BTN_POLL` and `ACT_UPDATE` that do not touch the counter
do not fault, and those that do are not reached (the invariant of R40). -/
def Obligations.ClosedGateFaultsCounterOperations : Prop :=
  ∀ s : State, s.block.tickEn = false →
    exec .tickNow s = .next (s.faulting .tickUninit) ∧
    exec .tickReset s = .next (s.faulting .tickUninit) ∧
    exec .btnEdge s = .next (s.faulting .tickUninit) ∧
    (s.block.dbPending = true → exec .btnPoll s = .next (s.faulting .tickUninit)) ∧
    (∀ dir, s.targetFits = true → exec (.actSet dir) s = .next (s.faulting .tickUninit)) ∧
    (s.block.actSteps ≠ 0 → exec .actUpdate s = .next (s.faulting .tickUninit)) ∧
    (∃ t, exec .tick s = .next t ∧ t.lastFault = none) ∧
    (∃ t, exec .tickInit s = .next t ∧ t.lastFault = none) ∧
    (s.block.dbPending = false → exec .btnPoll s = .next (s.respond s.block (.value 0))) ∧
    (s.block.actSteps = 0 → exec .actUpdate s = .next (s.respond s.block (.value 0))) ∧
    (s.Inv → s.block.dbPending = false ∧ s.block.actSteps = 0)

/-- R102, R103. -/
def Obligations.TickInitOpensTheGateOnce : Prop :=
  (∀ (agent : Agent) (w : OpWord), admission agent w = .operation .tickInit ↔ agent = .host ∧ w = 0x08) ∧
  ∀ s : State,
    (s.block.tickEn = false →
      exec .tickInit s = .next (s.respond { s.block with tickCount := 0, tickEn := true } .none)) ∧
    (s.block.tickEn = true → exec .tickInit s = .next (s.faulting .tickReinit))

/-- R104, R53. -/
def Obligations.TickNowAnswersTheWholeCount : Prop :=
  (∀ (agent : Agent) (w : OpWord), admission agent w = .operation .tickNow ↔ agent = .host ∧ w = 0x09) ∧
  ∀ s : State,
    (s.block.tickEn = true → ∃ v : BitVec s.config.opndW,
      exec .tickNow s = .next (s.respond s.block (.value v)) ∧ v.toNat = s.block.tickCount.toNat) ∧
    (s.block.tickEn = false → exec .tickNow s = .next (s.faulting .tickUninit))

/-- R106. -/
def Obligations.TickResetClearsOnlyTheCount : Prop :=
  (∀ (agent : Agent) (w : OpWord), admission agent w = .operation .tickReset ↔ agent = .host ∧ w = 0x0A) ∧
  ∀ s : State,
    (s.block.tickEn = true → exec .tickReset s = .next (s.respond { s.block with tickCount := 0 } .none)) ∧
    (s.block.tickEn = false → exec .tickReset s = .next (s.faulting .tickUninit))

/-- R105: between two `TICK_NOW` answers, with any interleaved operations that do not reset the counter, the count moves
by the number of `TICK` events, modulo 2^`TICK_W`; exactly, while it does not wrap; not at all, for none. -/
def Obligations.CountingLaw : Prop :=
  ∀ (s t u v : State) (n first second : Nat),
    s.nextIs .tickNow = true → step s = .next t → t.lastValue = some first →
    stepN n t = .next u → countAlong State.resetsCount n t = 0 →
    u.nextIs .tickNow = true → step u = .next v → v.lastValue = some second →
    second = (first + countAlong (State.nextIs .tick) n t) % 2 ^ s.config.tickW ∧
    (countAlong (State.nextIs .tick) n t < 2 ^ s.config.tickW - first →
      second = first + countAlong (State.nextIs .tick) n t) ∧
    (countAlong (State.nextIs .tick) n t = 0 → second = first)

/-- R107: once the gate is open it stays open, no operation raises `TICK_UNINIT`, the tick source's operations do not
fault, and only a second `TICK_INIT` raises `TICK_REINIT`. -/
def Obligations.TickSourceCannotFailOnceInitialised : Prop :=
  ∀ s t : State, step s = .next t → s.block.tickEn = true →
    t.block.tickEn = true ∧ t.lastFault ≠ some .tickUninit ∧
    (s.nextIs .tick = true ∨ s.nextIs .tickNow = true ∨ s.nextIs .tickReset = true → t.lastFault = none) ∧
    (t.lastFault = some .tickReinit ↔ s.nextIs .tickInit = true)

/-- R23: `TICK_COUNT` after any step, whatever the operation: its writers are exactly four. -/
def Obligations.TickCountHasExactlyFourWriters : Prop :=
  ∀ s t : State, step s = .next t →
    t.block.tickCount.toNat =
      if s.nextIs .tick = true ∧ s.block.tickEn = true then
        (s.block.tickCount.toNat + 1) % 2 ^ s.config.tickW
      else if (s.nextIs .tickInit = true ∧ s.block.tickEn = false) ∨
          (s.nextIs .tickReset = true ∧ s.block.tickEn = true) ∨ s.acceptsPress = true then 0
      else s.block.tickCount.toNat

/-- R24: `TICK_EN` is 0 after reset, only `TICK_INIT` sets it, no operation clears it, and while it is 0 no step but
`TICK_INIT` changes `TICK_COUNT`. -/
def Obligations.OnlyTickInitOpensTheGate : Prop :=
  (∀ (c : Config) (x : Drive) (ps : List (Presentation c)), (State.powerOn c x ps).block.tickEn = false) ∧
  ∀ s t : State, step s = .next t →
    (t.block.tickEn = true ↔ s.block.tickEn = true ∨ s.nextIs .tickInit = true) ∧
    (s.block.tickEn = false → s.nextIs .tickInit = false → t.block.tickCount.toNat = s.block.tickCount.toNat)

/-! ### Capture and distance (41_capture.md) -/

/-- R120: the range, then the polarity, then the phase. -/
def Obligations.CaptureEdgeChecksRangeThenPolarity : Prop :=
  (∀ (agent : Agent) (w : OpWord),
    (admission agent w = .operation (.capEdge .rising) ↔ agent = .captureIRQ ∧ w = 0x01) ∧
    (admission agent w = .operation (.capEdge .falling) ↔ agent = .captureIRQ ∧ w = 0x11)) ∧
  ∀ (s : State) (pol : Polarity),
    (s.config.timerMax < s.port.a.toNat → exec (.capEdge pol) s = .next (s.faulting .captureRange)) ∧
    (s.port.a.toNat ≤ s.config.timerMax → pol ≠ s.block.capPol →
      exec (.capEdge pol) s = .next (s.respond s.block .none)) ∧
    (s.port.a.toNat ≤ s.config.timerMax → pol = s.block.capPol → s.block.capPhase = .awaitingRise →
      exec (.capEdge pol) s = .next (s.respond (s.block.riseTransition s.sample) .none)) ∧
    (s.port.a.toNat ≤ s.config.timerMax → pol = s.block.capPol → s.block.capPhase = .awaitingFall →
      exec (.capEdge pol) s = .next (s.respond (s.block.fallTransition s.sample) .none))

/-- R121: the rising transition stores the sample and re-arms for a fall; the last measurement is kept. -/
def Obligations.RisingTransitionStoresTheSample : Prop :=
  ∀ s : State, s.config.wf = true → s.port.a.toNat ≤ s.config.timerMax →
    s.block.capPol = .rising → s.block.capPhase = .awaitingRise →
    ∃ n : BitVec s.config.timerW, n.toNat = s.port.a.toNat ∧
      exec (.capEdge .rising) s = .next (s.respond
        { s.block with capRiseTs := n, capPol := .falling, capPhase := .awaitingFall } .none)

/-- R122, R123: the falling transition stores the sample and the pulse width of the wrap formula, and re-arms for a rise.
The premise on `CAP_RISE_TS` is R40.5, an invariant of every run. -/
def Obligations.FallingTransitionStoresThePulseWidth : Prop :=
  ∀ s : State, s.config.wf = true → s.port.a.toNat ≤ s.config.timerMax →
    s.block.capPol = .falling → s.block.capPhase = .awaitingFall → s.block.capRiseTs.toNat ≤ s.config.timerMax →
    ∃ n width : BitVec s.config.timerW, n.toNat = s.port.a.toNat ∧
      exec (.capEdge .falling) s = .next (s.respond
        { s.block with capFallTs := n, capPulseWidth := width, capPol := .rising, capPhase := .awaitingRise } .none) ∧
      (s.block.capRiseTs.toNat ≤ n.toNat → width.toNat = n.toNat - s.block.capRiseTs.toNat) ∧
      (n.toNat < s.block.capRiseTs.toNat →
        width.toNat = (s.config.timerMax - s.block.capRiseTs.toNat) + n.toNat ∧ width.toNat ≤ s.config.timerMax - 1)

/-- R123, R124: a rise sample `r` captured in one step is paired with the first falling transition that follows, however
many other operations come between, and the width is the wrap formula's. -/
def Obligations.AFallIsMeasuredAgainstItsRise : Prop :=
  ∀ (s t u v : State) (n r f : Nat) (p : Presentation s.config) (q : Presentation u.config)
    (rest : List (Presentation s.config)) (rest' : List (Presentation u.config)),
    s.pending = p :: rest → s.nextIs (.capEdge .rising) = true → p.a.toNat = r → r ≤ s.config.timerMax →
    s.block.capPol = .rising → s.block.capPhase = .awaitingRise → step s = .next t →
    stepN n t = .next u → countAlong State.fallsNext n t = 0 →
    u.pending = q :: rest' → u.fallsNext = true → q.a.toNat = f → step u = .next v →
    v.block.capPulseWidth.toNat = (if r ≤ f then f - r else (s.config.timerMax - r) + f) ∧
    v.block.capPhase = .awaitingRise ∧ v.block.capPol = .rising

/-- R124: with no falling transition, the machine stays AwaitingFall with its rise sample and its last measurement,
through any number of other operations: no timeout, and no rising transition re-arms it. -/
def Obligations.MissingEchoLeavesTheMachineAwaitingFall : Prop :=
  ∀ (s t : State) (n : Nat), s.block.capPhase = .awaitingFall → s.block.capPol = .falling →
    stepN n s = .next t → countAlong State.fallsNext n s = 0 →
    t.block.captureView = s.block.captureView

/-- R125. -/
def Obligations.DistNowAnswersTheTruncatedQuotient : Prop :=
  (∀ (agent : Agent) (w : OpWord), admission agent w = .operation .distNow ↔ agent = .host ∧ w = 0x0B) ∧
  ∀ s : State, ∃ v : BitVec s.config.opndW,
    exec .distNow s = .next (s.respond s.block (.value v)) ∧
    v.toNat = s.block.capPulseWidth.toNat / s.config.distDiv

/-- R28, R43, R126: what the capture machine holds, and so what `DIST_NOW` answers, depends on no field of the other
sub-blocks: two machines with the same presentations and the same capture fields keep the same capture fields through
every run, whatever the rest of their state. -/
def Obligations.CaptureDependsOnNoOtherSubBlock : Prop :=
  ∀ (s : State) (b : Block s.config) (n : Nat) (t : State), b.captureView = s.block.captureView →
    stepN n s = .next t →
    ∃ u, stepN n { s with block := b } = .next u ∧ u.block.captureView = t.block.captureView

/-! ### Debounce (42_debounce.md) -/

/-- R140. -/
def Obligations.ButtonEdgeRecordsTheCount : Prop :=
  (∀ (agent : Agent) (w : OpWord), admission agent w = .operation .btnEdge ↔ agent = .buttonIRQ ∧ w = 0x02) ∧
  ∀ s : State,
    (s.block.tickEn = true → exec .btnEdge s =
      .next (s.respond { s.block with dbPressTs := s.block.tickCount, dbPending := true } .none)) ∧
    (s.block.tickEn = false → exec .btnEdge s = .next (s.faulting .tickUninit))

/-- R142, R143, R144: the four outcomes of a poll. The elapsed count is the modular difference of R9. -/
def Obligations.ButtonPollResolvesThePendingRecord : Prop :=
  (∀ (agent : Agent) (w : OpWord), admission agent w = .operation .btnPoll ↔ agent = .host ∧ w = 0x0C) ∧
  ∀ s : State,
    (s.block.dbPending = false → exec .btnPoll s = .next (s.respond s.block (.value 0))) ∧
    (s.block.dbPending = true → s.block.tickEn = true →
      (s.block.tickCount - s.block.dbPressTs).toNat ≤ s.config.debounceWindow →
      exec .btnPoll s = .next (s.respond s.block (.value 0))) ∧
    (s.block.dbPending = true → s.block.tickEn = true →
      s.config.debounceWindow < (s.block.tickCount - s.block.dbPressTs).toNat →
      s.port.btnIn ≠ s.config.btnPressedLevel →
      exec .btnPoll s = .next (s.respond { s.block with dbPending := false } (.value 0))) ∧
    (s.block.dbPending = true → s.block.tickEn = true →
      s.config.debounceWindow < (s.block.tickCount - s.block.dbPressTs).toNat →
      s.port.btnIn = s.config.btnPressedLevel →
      exec .btnPoll s = .next (s.respond { s.block with dbPending := false, tickCount := 0 } (.value 1)))

/-- R141: edges with no poll between them leave one pending record, whose timestamp is the count at the last of them. -/
def Obligations.EdgesCoalesceIntoOneRecord : Prop :=
  ∀ (s t u : State) (n : Nat), s.nextIs .btnEdge = true → s.block.tickEn = true → step s = .next t →
    stepN n t = .next u → countAlong (State.nextIs .btnEdge) n t = 0 → countAlong (State.nextIs .btnPoll) n t = 0 →
    u.block.dbPending = true ∧ u.block.dbPressTs.toNat = s.block.tickCount.toNat

/-- R142, R145: over any run, presses accepted, and a record still pending at the end, are no more than the edges of the
run and the record pending at its start: a record is accepted at most once. -/
def Obligations.EachRecordIsAcceptedAtMostOnce : Prop :=
  ∀ (s t : State) (n : Nat), stepN n s = .next t →
    countAlong State.acceptsPress n s + (if t.block.dbPending then 1 else 0) ≤
      countAlong (State.nextIs .btnEdge) n s + (if s.block.dbPending then 1 else 0)

/-- R145.1: however many edges arrive before any poll resolves the record, they give at most one accepted press. -/
def Obligations.BouncesBeforeAResolvingPollGiveOnePress : Prop :=
  ∀ (s t u : State) (m n : Nat), stepN m s = .next t → countAlong State.resolvesRecord m s = 0 →
    stepN n t = .next u → countAlong (State.nextIs .btnEdge) n t = 0 →
    countAlong State.acceptsPress (m + n) s ≤ 1

/-- R219, R143: a press is accepted only when more than `DEBOUNCE_WINDOW` ticks have come since the last edge, where
nothing has reset the counter since. -/
def Obligations.PressesAreAcceptedOnlyAfterTheWindow : Prop :=
  ∀ (s t u : State) (n : Nat), s.nextIs .btnEdge = true → s.block.tickEn = true → step s = .next t →
    stepN n t = .next u → countAlong (State.nextIs .btnEdge) n t = 0 → countAlong State.resetsCount n t = 0 →
    u.acceptsPress = true → s.config.debounceWindow < countAlong (State.nextIs .tick) n t

/-! ### Actuator (43_actuator.md) -/

/-- R160: the target is recorded, the phase and its output are kept, and the interval reads as already elapsed. -/
def Obligations.ActSetRecordsTheTarget : Prop :=
  (∀ (agent : Agent) (w : OpWord),
    (admission agent w = .operation (.actSet .cw) ↔ agent = .host ∧ w = 0x0D) ∧
    (admission agent w = .operation (.actSet .ccw) ↔ agent = .host ∧ w = 0x1D)) ∧
  ∀ (s : State) (dir : Direction),
    (s.port.a.toNat < 2 ^ s.config.stepW → s.port.b.toNat < 2 ^ s.config.tickW → s.block.tickEn = true →
      ∃ (steps : BitVec s.config.stepW) (interval last : BitVec s.config.tickW),
        exec (.actSet dir) s = .next (s.respond
          { s.block with actSteps := steps, actDir := dir, actInterval := interval, actLastTs := last } .none) ∧
        steps.toNat = s.port.a.toNat ∧ interval.toNat = s.port.b.toNat ∧
        last = s.block.tickCount - interval ∧ s.block.tickCount - last = interval) ∧
    (2 ^ s.config.stepW ≤ s.port.a.toNat ∨ 2 ^ s.config.tickW ≤ s.port.b.toNat →
      exec (.actSet dir) s = .next (s.faulting .illegalOp)) ∧
    (s.port.a.toNat < 2 ^ s.config.stepW → s.port.b.toNat < 2 ^ s.config.tickW → s.block.tickEn = false →
      exec (.actSet dir) s = .next (s.faulting .tickUninit))

/-- R161, R162, R165: idle, waiting, or one step, in which the phase advances first and its pattern is driven. -/
def Obligations.ActUpdateTakesAtMostOneStep : Prop :=
  (∀ (agent : Agent) (w : OpWord), admission agent w = .operation .actUpdate ↔ agent = .host ∧ w = 0x0E) ∧
  ∀ s : State,
    (s.block.actSteps = 0 → exec .actUpdate s = .next (s.respond s.block (.value 0))) ∧
    (s.block.actSteps ≠ 0 → s.block.tickEn = true →
      (s.block.tickCount - s.block.actLastTs).toNat < s.block.actInterval.toNat →
      exec .actUpdate s = .next (s.respond s.block (.value 1))) ∧
    (s.block.actSteps ≠ 0 → s.block.tickEn = true →
      s.block.actInterval.toNat ≤ (s.block.tickCount - s.block.actLastTs).toNat →
      ∃ (phase : PhaseIndex) (steps : BitVec s.config.stepW),
        exec .actUpdate s = .next (s.respond
          { s.block with
            actPhase := phase
            phaseOut := s.config.phasePattern.pattern phase
            actSteps := steps
            actLastTs := s.block.tickCount } (.value 1)) ∧
        steps.toNat = s.block.actSteps.toNat - 1 ∧
        (s.block.actDir = .cw → phase.toNat = (s.block.actPhase.toNat + 1) % 4) ∧
        (s.block.actDir = .ccw → phase.toNat = (s.block.actPhase.toNat + 3) % 4))

/-- R165: the answer of `ACT_UPDATE`, in every state of a run: 1 exactly when steps remained at its start. -/
def Obligations.ActUpdateAnswersWhetherStepsRemained : Prop :=
  ∀ s t : State, s.Inv → s.nextIs .actUpdate = true → step s = .next t →
    t.lastValue = some (if s.block.actSteps = 0 then 0 else 1)

/-- R163: between two steps of one target, with nothing resetting the counter, at least `ACT_INTERVAL` ticks come. -/
def Obligations.StepsAreAtLeastAnIntervalApart : Prop :=
  ∀ (s t u : State) (n : Nat), s.takesStep = true → step s = .next t →
    stepN n t = .next u → countAlong State.resetsCount n t = 0 → countAlong State.setsTarget n t = 0 →
    u.takesStep = true → s.block.actInterval.toNat ≤ countAlong (State.nextIs .tick) n t

/-- R163: with `ACT_INTERVAL ≥ 1`, repeated `ACT_UPDATE` operations with no `TICK` between them take at most one step. -/
def Obligations.UpdatesWithoutATickTakeOneStep : Prop :=
  ∀ (s t : State) (n : Nat), stepN n s = .next t → countAlong (State.nextIs .actUpdate) n s = n →
    s.block.actInterval ≠ 0 → countAlong State.takesStep n s ≤ 1

/-- R164, R31: outside `ACT_SET`, `ACT_STEPS` goes down by one exactly in a step, never wraps, and stays otherwise; a
step sets `ACT_LAST_TS` to the count it was taken at, so lateness is not made up. -/
def Obligations.StepsRemainingGoDownOnlyByStepping : Prop :=
  ∀ s t : State, step s = .next t → s.setsTarget = false →
    t.block.actSteps.toNat + (if s.takesStep then 1 else 0) = s.block.actSteps.toNat ∧
    (s.takesStep = true → t.block.actLastTs.toNat = s.block.tickCount.toNat) ∧
    (s.takesStep = false → t.block.actuatorView = s.block.actuatorView)

/-- R162, R164, R166: over a run that sets no target, the steps taken are the steps counted off, and the phase moves by
one place in the direction of travel for each, in a cycle of four. -/
def Obligations.PhaseFollowsTheStepsTaken : Prop :=
  ∀ (s t : State) (n : Nat), stepN n s = .next t → countAlong State.setsTarget n s = 0 →
    countAlong State.takesStep n s = s.block.actSteps.toNat - t.block.actSteps.toNat ∧
    t.block.actSteps.toNat ≤ s.block.actSteps.toNat ∧ t.block.actDir = s.block.actDir ∧
    t.block.actPhase.toNat = (match s.block.actDir with
      | .cw => (s.block.actPhase.toNat + countAlong State.takesStep n s) % 4
      | .ccw => (s.block.actPhase.toNat + 3 * countAlong State.takesStep n s) % 4)

/-- R166, R214: a moving actuator polled after `d` ticks, `d` at least the interval and less than 2^`TICK_W`, takes one
step in that poll and answers 1, and is then as it was but for one step fewer and the next phase. -/
def Obligations.APacedPollTakesItsStep : Prop :=
  ∀ (s t u : State) (d : Nat), s.block.tickEn = true → s.block.actSteps ≠ 0 →
    s.block.actLastTs = s.block.tickCount → s.block.actInterval.toNat ≤ d → d < 2 ^ s.config.tickW →
    stepN d s = .next t → countAlong (State.nextIs .tick) d s = d → t.nextIs .actUpdate = true → step t = .next u →
    u.lastValue = some 1 ∧ u.block.actSteps.toNat = s.block.actSteps.toNat - 1 ∧
    u.block.actLastTs.toNat = u.block.tickCount.toNat ∧ u.block.tickEn = true ∧
    u.block.actInterval.toNat = s.block.actInterval.toNat ∧ u.block.actDir = s.block.actDir ∧
    u.block.actPhase = nextPhase s.block.actPhase s.block.actDir

/-- R167: the source's scenario, in every configuration whose counter can hold its counts and from every state of the
block with the gate open at count 1000: set one step every 5, one tick, two polls. -/
def Obligations.TheSourceScenarioTakesOneStep : Prop :=
  ∀ (c : Config) (b : Block c) (port : Port c) (v : Level) (rs : List (Response c)),
    c.wf = true → 10 ≤ c.tickW → b.tickEn = true → b.tickCount.toNat = 1000 →
    ∃ t u w x : State,
      step
        { config := c, block := b, port := port, responses := rs
          pending := [(Instr.actSet .cw).present 1 5 v, Instr.tick.present 0 0 v, Instr.actUpdate.present 0 0 v,
            Instr.actUpdate.present 0 0 v] } = .next t ∧
      t.block.actSteps.toNat = 1 ∧ t.block.actLastTs.toNat = 995 ∧
      step t = .next u ∧ u.block.tickCount.toNat = 1001 ∧
      step u = .next w ∧ w.lastValue = some 1 ∧ w.block.actSteps.toNat = 0 ∧
      step w = .next x ∧ x.lastValue = some 0

/-- R215: a count `n` below a held timestamp `l` reads as 2^`TICK_W` − l + n ticks later, so after a counter reset a
moving actuator whose interval is no longer than that steps at its next poll, and a pending record whose window is
shorter resolves. -/
def Obligations.CounterResetAgesHeldTimestamps : Prop :=
  ∀ s : State, s.block.tickEn = true →
    (s.block.tickCount.toNat < s.block.actLastTs.toNat → s.block.actSteps ≠ 0 →
      s.block.actInterval.toNat ≤ 2 ^ s.config.tickW - s.block.actLastTs.toNat + s.block.tickCount.toNat →
      ∃ b : Block s.config, exec .actUpdate s = .next (s.respond b (.value 1)) ∧
        b.actSteps.toNat + 1 = s.block.actSteps.toNat ∧ b.actLastTs = s.block.tickCount) ∧
    (s.block.tickCount.toNat < s.block.dbPressTs.toNat → s.block.dbPending = true →
      s.config.debounceWindow < 2 ^ s.config.tickW - s.block.dbPressTs.toNat + s.block.tickCount.toNat →
      ∃ (b : Block s.config) (v : BitVec s.config.opndW),
        exec .btnPoll s = .next (s.respond b (.value v)) ∧ b.dbPending = false)

/-! ### Reset and whole-machine rules (70_reset_and_hazards.md, 10_state.md) -/

/-- R210: every field after block reset, for every configuration and every draw of `PHASE_OUT`. -/
def Obligations.BlockResetSetsEveryField : Prop :=
  ∀ (c : Config) (x : Drive) (ps : List (Presentation c)), (State.powerOn c x ps).block =
    { tickCount := 0
      tickEn := false
      capPhase := .awaitingRise
      capPol := .rising
      capRiseTs := 0
      capFallTs := 0
      capPulseWidth := 0
      dbPending := false
      dbPressTs := 0
      actSteps := 0
      actDir := .cw
      actInterval := 0
      actLastTs := 0
      actPhase := 0
      phaseOut := x
      faultCause := 0 }

/-- R213: the invariants hold at block reset. -/
def Obligations.BlockResetMeetsTheInvariants : Prop :=
  ∀ (c : Config) (x : Drive) (ps : List (Presentation c)), (State.powerOn c x ps).Inv

/-- R40: every step, of any agent, keeps the invariants. -/
def Obligations.EveryStepKeepsTheInvariants : Prop :=
  ∀ s t : State, s.Inv → step s = .next t → t.Inv

/-- R40, R213: the invariants hold in every state reachable from block reset, whatever the agents present. -/
def Obligations.ReachableStatesMeetTheInvariants : Prop :=
  ∀ (c : Config) (x : Drive) (ps : List (Presentation c)) (n : Nat) (t : State),
    stepN n (State.powerOn c x ps) = .next t → t.Inv

/-- R196, R212: in a run whose every step keeps to the duties, no step faults; and a step that breaks one, where it is a
step at all, faults. -/
def Obligations.FaultsAreExactlyBrokenDuties : Prop :=
  (∀ (s t : State) (n : Nat), s.Inv → stepN n s = .next t → countAlong State.breaksDuty n s = 0 →
    t.block.faultCause = s.block.faultCause) ∧
  ∀ s t : State, s.Inv → step s = .next t → (s.breaksDuty = true ↔ ∃ cause, t.lastFault = some cause)

/-! ### Assembler form (30_encoding.md) -/

/-- The pseudo-operation `act.cancel` and the directives `ticks` and `.word` expand as R80 says. The `pin` clause is the
model's choice: R80 fixes only the value the next `btn.poll` samples, and the model keeps the level for every presentation
until the next `pin` line (notes/assumptions/10, DEDUCED from program P2 of 95_test_vectors.md, "held pressed from here
on"). That every presentation carries a level is the model's too (notes/assumptions/2). -/
def Obligations.ScriptLinesExpand : Prop :=
  readLine "act.cancel" = some (.operation .host (.actSet .cw) 0 0) ∧ encode (.actSet .cw) = 0x0D ∧
  ∀ (c : Config) (level : Level) (rest : List ScriptLine) (ps : List (Presentation c)),
    assemble c level rest = some ps →
    assemble c level (.operation .host (.actSet .cw) 0 0 :: rest) = some (⟨.host, 0x0D, 0, 0, level⟩ :: ps) ∧
    (∀ n, assemble c level (.ticks n :: rest) = some (List.replicate n ⟨.tickIRQ, 0x00, 0, 0, level⟩ ++ ps)) ∧
    (∀ v, assemble c v (.pin level :: rest) = some ps) ∧
    ∀ w, assemble c level (.word w :: rest) = some (⟨.host, w, 0, 0, level⟩ :: ps)

/-- R79: the twelve written forms name the operations of the words beside them. -/
def Obligations.WrittenFormsNameTheirWords : Prop :=
  [("tick", Agent.tickIRQ, 0x00#8, 0, 0), ("cap.edge rise, 7", .captureIRQ, 0x01, 7, 0),
   ("cap.edge fall, 0x62C", .captureIRQ, 0x11, 1580, 0), ("btn.edge", .buttonIRQ, 0x02, 0, 0),
   ("tick.init", .host, 0x08, 0, 0), ("tick.now ; -> R", .host, 0x09, 0, 0), ("tick.reset", .host, 0x0A, 0, 0),
   ("dist.now", .host, 0x0B, 0, 0), ("btn.poll", .host, 0x0C, 0, 0), ("act.set cw, 4, 10", .host, 0x0D, 4, 10),
   ("act.set ccw, 3, 0x04", .host, 0x1D, 3, 4), ("act.update", .host, 0x0E, 0, 0)].all
    (fun (line, agent, word, a, b) =>
      match readLine line with
      | some (.operation agent' i a' b') => agent' == agent && encode i == word && a' == a && b' == b
      | _ => false) = true
end

