-- ==== Sys2Proof/Laws/State.lean ====
section
/-! SUPPORT. One lemma per field per update, so that no later proof unfolds a record update. -/

namespace Sys2Proof.Machine

variable (s : State) (b : Block s.config) (r : Response s.config) (p : Presentation s.config)
  (rest : List (Presentation s.config))

/-! ### Answering -/

@[simp] theorem State.respond_config : (s.respond b r).config = s.config := rfl
@[simp] theorem State.respond_block : (s.respond b r).block = b := rfl
@[simp] theorem State.respond_port : (s.respond b r).port = s.port := rfl
@[simp] theorem State.respond_pending : (s.respond b r).pending = s.pending := rfl
@[simp] theorem State.respond_responses : (s.respond b r).responses = r :: s.responses := rfl

/-! ### Taking a presentation -/

@[simp] theorem State.latch_config : (s.latch p rest).config = s.config := rfl
@[simp] theorem State.latch_block : (s.latch p rest).block = s.block := rfl
@[simp] theorem State.latch_port_a : (s.latch p rest).port.a = p.a := rfl
@[simp] theorem State.latch_port_b : (s.latch p rest).port.b = p.b := rfl
@[simp] theorem State.latch_port_btnIn : (s.latch p rest).port.btnIn = p.btnIn := rfl
@[simp] theorem State.latch_pending : (s.latch p rest).pending = rest := rfl
@[simp] theorem State.latch_responses : (s.latch p rest).responses = s.responses := rfl

/-! ### Presenting a word -/

@[simp] theorem State.presentNext_config : (s.presentNext p).config = s.config := rfl
@[simp] theorem State.presentNext_block : (s.presentNext p).block = s.block := rfl
@[simp] theorem State.presentNext_port : (s.presentNext p).port = s.port := rfl
@[simp] theorem State.presentNext_pending : (s.presentNext p).pending = p :: s.pending := rfl
@[simp] theorem State.presentNext_responses : (s.presentNext p).responses = s.responses := rfl

/-! ### The newest response -/

@[simp] theorem State.lastValue_value (v : BitVec s.config.opndW) :
    (s.respond b (.value v)).lastValue = some v.toNat := rfl
@[simp] theorem State.lastValue_none : (s.respond b .none).lastValue = none := rfl
@[simp] theorem State.lastValue_fault (cause : Cause) : (s.respond b (.fault cause)).lastValue = none := rfl
@[simp] theorem State.lastFault_value (v : BitVec s.config.opndW) :
    (s.respond b (.value v)).lastFault = none := rfl
@[simp] theorem State.lastFault_none : (s.respond b .none).lastFault = none := rfl
@[simp] theorem State.lastFault_fault (cause : Cause) :
    (s.respond b (.fault cause)).lastFault = some cause := rfl

/-! ### Recording a fault: only `FAULT_CAUSE` is written -/

section
variable {c : Config} (k : Block c) (cause : Cause)

theorem Block.recordFault_eq : k.recordFault cause =
    { k with faultCause := if k.faultCause = 0 then cause.code else k.faultCause } := by
  unfold Block.recordFault
  split <;> rfl

@[simp] theorem Block.recordFault_faultCause :
    (k.recordFault cause).faultCause = if k.faultCause = 0 then cause.code else k.faultCause := by
  rw [Block.recordFault_eq]

@[simp] theorem Block.recordFault_tickCount : (k.recordFault cause).tickCount = k.tickCount := by
  rw [Block.recordFault_eq]
@[simp] theorem Block.recordFault_tickEn : (k.recordFault cause).tickEn = k.tickEn := by
  rw [Block.recordFault_eq]
@[simp] theorem Block.recordFault_capPhase : (k.recordFault cause).capPhase = k.capPhase := by
  rw [Block.recordFault_eq]
@[simp] theorem Block.recordFault_capPol : (k.recordFault cause).capPol = k.capPol := by
  rw [Block.recordFault_eq]
@[simp] theorem Block.recordFault_capRiseTs : (k.recordFault cause).capRiseTs = k.capRiseTs := by
  rw [Block.recordFault_eq]
@[simp] theorem Block.recordFault_capFallTs : (k.recordFault cause).capFallTs = k.capFallTs := by
  rw [Block.recordFault_eq]
@[simp] theorem Block.recordFault_capPulseWidth : (k.recordFault cause).capPulseWidth = k.capPulseWidth := by
  rw [Block.recordFault_eq]
@[simp] theorem Block.recordFault_dbPending : (k.recordFault cause).dbPending = k.dbPending := by
  rw [Block.recordFault_eq]
@[simp] theorem Block.recordFault_dbPressTs : (k.recordFault cause).dbPressTs = k.dbPressTs := by
  rw [Block.recordFault_eq]
@[simp] theorem Block.recordFault_actSteps : (k.recordFault cause).actSteps = k.actSteps := by
  rw [Block.recordFault_eq]
@[simp] theorem Block.recordFault_actDir : (k.recordFault cause).actDir = k.actDir := by
  rw [Block.recordFault_eq]
@[simp] theorem Block.recordFault_actInterval : (k.recordFault cause).actInterval = k.actInterval := by
  rw [Block.recordFault_eq]
@[simp] theorem Block.recordFault_actLastTs : (k.recordFault cause).actLastTs = k.actLastTs := by
  rw [Block.recordFault_eq]
@[simp] theorem Block.recordFault_actPhase : (k.recordFault cause).actPhase = k.actPhase := by
  rw [Block.recordFault_eq]
@[simp] theorem Block.recordFault_phaseOut : (k.recordFault cause).phaseOut = k.phaseOut := by
  rw [Block.recordFault_eq]

@[simp] theorem Block.recordFault_tickView : (k.recordFault cause).tickView = k.tickView := by
  simp [Block.tickView]
@[simp] theorem Block.recordFault_captureView : (k.recordFault cause).captureView = k.captureView := by
  simp [Block.captureView]
@[simp] theorem Block.recordFault_debounceView : (k.recordFault cause).debounceView = k.debounceView := by
  simp [Block.debounceView]
@[simp] theorem Block.recordFault_actuatorView : (k.recordFault cause).actuatorView = k.actuatorView := by
  simp [Block.actuatorView]

end

end Sys2Proof.Machine
end

