-- ==== Sys2Proof/Laws/Ops.lean ====
section
/-! SUPPORT. What each shared operation, each meaning and a step can do, said once: provers cite these lemmas instead of
unfolding the definitions. -/

namespace Sys2Proof.Machine

variable {s t : State}

/-! ### Shared operations -/

theorem answer_next {b : Block s.config} {r : Response s.config} :
    answer s b r = .next t ↔ t = s.respond b r := by
  simp [answer, eq_comm]

theorem raiseFault_eq (cause : Cause) : raiseFault s cause = .next (s.faulting cause) := rfl

theorem raiseFault_next {cause : Cause} : raiseFault s cause = .next t ↔ t = s.faulting cause := answer_next

/-- Through the gate, or the gate's fault. -/
theorem withTickCount_next {k : BitVec s.config.tickW → Host.Outcome State Fault Refusal} :
    withTickCount s k = .next t ↔
      (s.block.tickEn = true ∧ k s.block.tickCount = .next t) ∨
      (s.block.tickEn = false ∧ t = s.faulting .tickUninit) := by
  unfold withTickCount
  cases s.block.tickEn <;> simp [raiseFault_next]

theorem withTickCount_open {k : BitVec s.config.tickW → Host.Outcome State Fault Refusal}
    (h : s.block.tickEn = true) : withTickCount s k = k s.block.tickCount := by
  simp [withTickCount, h]

theorem withTickCount_closed {k : BitVec s.config.tickW → Host.Outcome State Fault Refusal}
    (h : s.block.tickEn = false) : withTickCount s k = .next (s.faulting .tickUninit) := by
  simp [withTickCount, h, raiseFault_eq]

/-! ### Meanings: everything each can do -/

theorem execTick_next : execTick s = .next t ↔
    (s.block.tickEn = true ∧ t = s.respond { s.block with tickCount := s.block.tickCount + 1 } .none) ∨
    (s.block.tickEn = false ∧ t = s.respond s.block .none) := by
  unfold execTick
  cases s.block.tickEn <;> simp [answer_next]

theorem execTickInit_next : execTickInit s = .next t ↔
    (s.block.tickEn = true ∧ t = s.faulting .tickReinit) ∨
    (s.block.tickEn = false ∧ t = s.respond { s.block with tickCount := 0, tickEn := true } .none) := by
  unfold execTickInit
  cases s.block.tickEn <;> simp [answer_next, raiseFault_next]

theorem execTickNow_next : execTickNow s = .next t ↔
    (s.block.tickEn = true ∧ t = s.respond s.block (zextValue s.config s.block.tickCount)) ∨
    (s.block.tickEn = false ∧ t = s.faulting .tickUninit) := by
  simp [execTickNow, withTickCount_next, answer_next]

theorem execTickReset_next : execTickReset s = .next t ↔
    (s.block.tickEn = true ∧ t = s.respond { s.block with tickCount := 0 } .none) ∨
    (s.block.tickEn = false ∧ t = s.faulting .tickUninit) := by
  simp [execTickReset, withTickCount_next, answer_next]

theorem execCapEdge_next {pol : Polarity} : execCapEdge pol s = .next t ↔
    (s.sampleInRange = false ∧ t = s.faulting .captureRange) ∨
    (s.sampleInRange = true ∧ s.block.capPol ≠ pol ∧ t = s.respond s.block .none) ∨
    (s.sampleInRange = true ∧ s.block.capPol = pol ∧ t = s.respond (s.block.captureTransition s.sample) .none) := by
  unfold execCapEdge Block.armedFor
  cases s.sampleInRange <;> cases s.block.capPol <;> cases pol <;> simp [answer_next, raiseFault_next]

theorem execDistNow_next : execDistNow s = .next t ↔
    t = s.respond s.block (.value (BitVec.ofNat s.config.opndW (distance s.config s.block.capPulseWidth))) :=
  answer_next

theorem execBtnEdge_next : execBtnEdge s = .next t ↔
    (s.block.tickEn = true ∧
      t = s.respond { s.block with dbPressTs := s.block.tickCount, dbPending := true } .none) ∨
    (s.block.tickEn = false ∧ t = s.faulting .tickUninit) := by
  simp [execBtnEdge, withTickCount_next, answer_next]

theorem execBtnPoll_next : execBtnPoll s = .next t ↔
    (s.block.dbPending = false ∧ t = s.respond s.block (boolValue s.config false)) ∨
    (s.block.dbPending = true ∧ s.block.tickEn = false ∧ t = s.faulting .tickUninit) ∨
    (s.block.dbPending = true ∧ s.block.tickEn = true ∧ s.block.windowElapsed s.block.tickCount = false ∧
      t = s.respond s.block (boolValue s.config false)) ∨
    (s.block.dbPending = true ∧ s.block.tickEn = true ∧ s.block.windowElapsed s.block.tickCount = true ∧
      s.pressed = false ∧ t = s.respond { s.block with dbPending := false } (boolValue s.config false)) ∨
    (s.block.dbPending = true ∧ s.block.tickEn = true ∧ s.block.windowElapsed s.block.tickCount = true ∧
      s.pressed = true ∧
      t = s.respond { s.block with dbPending := false, tickCount := 0 } (boolValue s.config true)) := by
  unfold execBtnPoll withTickCount
  cases s.block.dbPending <;> cases s.block.tickEn <;> cases hw : s.block.windowElapsed s.block.tickCount <;>
    cases s.pressed <;> simp [hw, answer_next, raiseFault_next]

theorem execActSet_next {dir : Direction} : execActSet dir s = .next t ↔
    (s.targetFits = false ∧ t = s.faulting .illegalOp) ∨
    (s.targetFits = true ∧ s.block.tickEn = false ∧ t = s.faulting .tickUninit) ∨
    (s.targetFits = true ∧ s.block.tickEn = true ∧
      t = s.respond
        { s.block with
          actSteps := s.stepsOperand
          actDir := dir
          actInterval := s.intervalOperand
          actLastTs := tsub s.block.tickCount s.intervalOperand } .none) := by
  unfold execActSet withTickCount
  cases s.targetFits <;> cases s.block.tickEn <;> simp [answer_next, raiseFault_next]

theorem execActUpdate_next : execActUpdate s = .next t ↔
    (s.block.idle = true ∧ t = s.respond s.block (boolValue s.config false)) ∨
    (s.block.idle = false ∧ s.block.tickEn = false ∧ t = s.faulting .tickUninit) ∨
    (s.block.idle = false ∧ s.block.tickEn = true ∧ s.block.intervalElapsed s.block.tickCount = false ∧
      t = s.respond s.block (boolValue s.config true)) ∨
    (s.block.idle = false ∧ s.block.tickEn = true ∧ s.block.intervalElapsed s.block.tickCount = true ∧
      t = s.respond (s.block.takeStep s.block.tickCount) (boolValue s.config true)) := by
  unfold execActUpdate withTickCount
  cases s.block.idle <;> cases s.block.tickEn <;> cases he : s.block.intervalElapsed s.block.tickCount <;>
    simp [he, answer_next, raiseFault_next]

/-- Every operation answers: it leaves a block, gives one response, and touches nothing else of the state. -/
theorem exec_answers (i : Instr) (s : State) :
    ∃ (b : Block s.config) (r : Response s.config), exec i s = .next (s.respond b r) := by
  cases i <;>
    simp only [exec, execTick, execCapEdge, execBtnEdge, execTickInit, execTickNow, execTickReset, execDistNow,
      execBtnPoll, execActSet, execActUpdate, withTickCount] <;>
    (repeat' split) <;> exact ⟨_, _, rfl⟩

/-! ### A step: everything it can do -/

theorem fetch_operation {i : Instr} {u : State} : fetch s = .operation i u ↔
    ∃ p rest, s.config.wf = true ∧ s.pending = p :: rest ∧ admission p.agent p.word = .operation i ∧
      u = s.latch p rest := by
  unfold fetch
  cases s.config.wf with
  | false => simp
  | true =>
    rcases hp : s.pending with _ | ⟨p, rest⟩
    · simp
    · cases ha : admission p.agent p.word <;> simp [ha, eq_comm, and_assoc]

theorem fetch_illegal {u : State} : fetch s = .illegal u ↔
    ∃ p rest, s.config.wf = true ∧ s.pending = p :: rest ∧ admission p.agent p.word = .illegal ∧
      u = s.latch p rest := by
  unfold fetch
  cases s.config.wf with
  | false => simp
  | true =>
    rcases hp : s.pending with _ | ⟨p, rest⟩
    · simp
    · cases ha : admission p.agent p.word <;> simp [ha, eq_comm]

/-- A step that answers a next state runs an admitted operation, or faults on an illegal Host word. -/
theorem step_next : step s = .next t ↔
    ∃ p rest, s.config.wf = true ∧ s.pending = p :: rest ∧
      ((∃ i, admission p.agent p.word = .operation i ∧ exec i (s.latch p rest) = .next t) ∨
       (admission p.agent p.word = .illegal ∧ t = (s.latch p rest).faulting .illegalOp)) := by
  unfold step
  cases hf : fetch s with
  | operation i u =>
    obtain ⟨p, rest, hwf, hp, ha, rfl⟩ := fetch_operation.1 hf
    constructor
    · intro h
      exact ⟨p, rest, hwf, hp, .inl ⟨i, ha, h⟩⟩
    · rintro ⟨p', rest', -, hp', ⟨i', ha', h⟩ | ⟨ha', -⟩⟩
      · obtain ⟨rfl, rfl⟩ := List.cons.inj (hp.symm.trans hp')
        cases ha.symm.trans ha'
        exact h
      · obtain ⟨rfl, rfl⟩ := List.cons.inj (hp.symm.trans hp')
        cases ha.symm.trans ha'
  | illegal u =>
    obtain ⟨p, rest, hwf, hp, ha, rfl⟩ := fetch_illegal.1 hf
    constructor
    · intro h
      exact ⟨p, rest, hwf, hp, .inr ⟨ha, raiseFault_next.1 h⟩⟩
    · rintro ⟨p', rest', -, hp', ⟨i', ha', h⟩ | ⟨ha', h⟩⟩
      · obtain ⟨rfl, rfl⟩ := List.cons.inj (hp.symm.trans hp')
        cases ha.symm.trans ha'
      · obtain ⟨rfl, rfl⟩ := List.cons.inj (hp.symm.trans hp')
        exact raiseFault_next.2 h
  | refused r =>
    constructor
    · intro h
      cases h
    · rintro ⟨p, rest, hwf, hp, ⟨i, ha, -⟩ | ⟨ha, -⟩⟩
      · cases hf.symm.trans (fetch_operation.2 ⟨p, rest, hwf, hp, ha, rfl⟩)
      · cases hf.symm.trans (fetch_illegal.2 ⟨p, rest, hwf, hp, ha, rfl⟩)

/-- Which operation the next step runs, read from the next presentation. -/
theorem nextIs_eq {i : Instr} {p : Presentation s.config} {rest : List (Presentation s.config)}
    (hwf : s.config.wf = true) (hp : s.pending = p :: rest) :
    s.nextIs i = (admission p.agent p.word == .operation i) := by
  cases ha : admission p.agent p.word with
  | operation j =>
    rw [State.nextIs, fetch_operation.2 ⟨p, rest, hwf, hp, ha, rfl⟩, Bool.eq_iff_iff]
    simp
  | illegal =>
    rw [State.nextIs, fetch_illegal.2 ⟨p, rest, hwf, hp, ha, rfl⟩]
    rfl
  | noStep =>
    have hf : fetch s = .refused (.noStep p.agent p.word) := by
      unfold fetch
      split
      · simp [hp, ha]
      · simp_all
    rw [State.nextIs, hf]
    rfl

/-- An agent runs only operations that belong to it. -/
theorem admission_operation {agent : Agent} {w : OpWord} {i : Instr} (h : admission agent w = .operation i) :
    decode w = some i ∧ agent = i.agent := by
  unfold admission at h
  cases hd : decode w with
  | none => cases agent <;> simp [hd, rejected] at h
  | some j =>
    by_cases ha : j.agent = agent
    · simp [hd, ha] at h
      exact ⟨by rw [h], by rw [← ha, h]⟩
    · cases agent <;> simp [hd, ha, rejected] at h

/-- Only on the Host port is a word illegal. -/
theorem admission_illegal {agent : Agent} {w : OpWord} (h : admission agent w = .illegal) : agent = .host := by
  unfold admission at h
  cases agent with
  | host => rfl
  | tickIRQ | captureIRQ | buttonIRQ => (repeat' split at h) <;> simp [rejected] at h

/-- A step that answers a next state, with what it was about to do: the operation it runs, whose it is and what it is
fetched as, or the illegal Host word. -/
theorem step_cases (h : step s = .next t) :
    ∃ p rest, s.config.wf = true ∧ s.pending = p :: rest ∧
      ((∃ i, (∀ j, s.nextIs j = (i == j)) ∧ p.agent = i.agent ∧ fetch s = .operation i (s.latch p rest) ∧
          exec i (s.latch p rest) = .next t) ∨
       ((∀ j, s.nextIs j = false) ∧ p.agent = .host ∧ fetch s = .illegal (s.latch p rest) ∧
          t = (s.latch p rest).faulting .illegalOp)) := by
  obtain ⟨p, rest, hwf, hp, ⟨i, ha, he⟩ | ⟨ha, rfl⟩⟩ := step_next.1 h
  · refine ⟨p, rest, hwf, hp, .inl ⟨i, fun j => ?_, (admission_operation ha).2, fetch_operation.2 ⟨_, _, hwf, hp, ha, rfl⟩, he⟩⟩
    rw [nextIs_eq hwf hp, ha, Bool.eq_iff_iff]
    simp
  · refine ⟨p, rest, hwf, hp, .inr ⟨fun j => ?_, admission_illegal ha, fetch_illegal.2 ⟨_, _, hwf, hp, ha, rfl⟩, rfl⟩⟩
    rw [nextIs_eq hwf hp, ha]
    rfl

/-! ### Runs -/

@[simp] theorem stepN_zero : stepN 0 s = .next t ↔ t = s := by
  simp [stepN, eq_comm]

theorem stepN_succ {n : Nat} : stepN (n + 1) s = .next t ↔ ∃ u, step s = .next u ∧ stepN n u = .next t := by
  cases h : step s <;> simp [stepN, h]

theorem countAlong_succ {P : State → Bool} {n : Nat} {u : State} (h : step s = .next u) :
    countAlong P (n + 1) s = (if P s then 1 else 0) + countAlong P n u := by
  simp [countAlong, h]

/-- A property that every step keeps holds at the end of a run if it held at its start. -/
theorem stepN_keeps {P : State → Prop} (hstep : ∀ s t, P s → step s = .next t → P t) {n : Nat} :
    P s → stepN n s = .next t → P t := by
  induction n generalizing s with
  | zero => rintro hs h; rwa [stepN_zero.1 h]
  | succ n ih =>
    intro hs h
    obtain ⟨u, hu, h⟩ := stepN_succ.1 h
    exact ih (hstep s u hs hu) h

/-- A run of `m + n` steps is a run of `m` and then one of `n`. -/
theorem stepN_add {m n : Nat} : stepN (m + n) s = .next t ↔ ∃ u, stepN m s = .next u ∧ stepN n u = .next t := by
  induction m generalizing s with
  | zero => simp
  | succ m ih =>
    rw [Nat.add_right_comm, stepN_succ]
    constructor
    · rintro ⟨v, hv, h⟩
      obtain ⟨u, hu, ht⟩ := ih.1 h
      exact ⟨u, stepN_succ.2 ⟨v, hv, hu⟩, ht⟩
    · rintro ⟨u, hu, ht⟩
      obtain ⟨v, hv, hu⟩ := stepN_succ.1 hu
      exact ⟨v, hv, ih.2 ⟨u, hu, ht⟩⟩

theorem countAlong_add {P : State → Bool} {m n : Nat} {u : State} (h : stepN m s = .next u) :
    countAlong P (m + n) s = countAlong P m s + countAlong P n u := by
  induction m generalizing s with
  | zero => rw [stepN_zero.1 h]; simp [countAlong]
  | succ m ih =>
    obtain ⟨v, hv, h⟩ := stepN_succ.1 h
    rw [Nat.add_right_comm, countAlong_succ hv, countAlong_succ hv, ih h, Nat.add_assoc]

end Sys2Proof.Machine
end

