-- ==== Sys2Proof/Laws/Effect.lean ====
section
/-! SUPPORT. Everything the operations can do, as one inductive relation: `cases exec_effect.1 h` splits an execution into
its named cases, each with the conditions it happens under and the state it leaves. -/

namespace Sys2Proof.Machine

/-- `Effect s i t`: run in `s`, the operation `i` leaves `t`. One constructor per case. -/
inductive Effect (s : State) : Instr → State → Prop where
  | tick (gate : s.block.tickEn = true) :
      Effect s .tick (s.respond { s.block with tickCount := s.block.tickCount + 1 } .none)
  | tickIgnored (gate : s.block.tickEn = false) : Effect s .tick (s.respond s.block .none)
  | tickInit (gate : s.block.tickEn = false) :
      Effect s .tickInit (s.respond { s.block with tickCount := 0, tickEn := true } .none)
  | tickReinit (gate : s.block.tickEn = true) : Effect s .tickInit (s.faulting .tickReinit)
  | tickNow (gate : s.block.tickEn = true) :
      Effect s .tickNow (s.respond s.block (zextValue s.config s.block.tickCount))
  | tickReset (gate : s.block.tickEn = true) :
      Effect s .tickReset (s.respond { s.block with tickCount := 0 } .none)
  | btnEdge (gate : s.block.tickEn = true) :
      Effect s .btnEdge (s.respond { s.block with dbPressTs := s.block.tickCount, dbPending := true } .none)
  | uninit {i : Instr} (hi : i ∈ [.tickNow, .tickReset, .btnEdge, .btnPoll, .actSet .cw, .actSet .ccw, .actUpdate])
      (gate : s.block.tickEn = false) (pending : i = .btnPoll → s.block.dbPending = true)
      (moving : i = .actUpdate → s.block.idle = false) : Effect s i (s.faulting .tickUninit)
  | captureRange {pol : Polarity} (range : s.sampleInRange = false) :
      Effect s (.capEdge pol) (s.faulting .captureRange)
  | unarmed {pol : Polarity} (range : s.sampleInRange = true) (armed : s.block.capPol ≠ pol) :
      Effect s (.capEdge pol) (s.respond s.block .none)
  | rise {pol : Polarity} (range : s.sampleInRange = true) (armed : s.block.capPol = pol)
      (phase : s.block.capPhase = .awaitingRise) :
      Effect s (.capEdge pol) (s.respond (s.block.riseTransition s.sample) .none)
  | fall {pol : Polarity} (range : s.sampleInRange = true) (armed : s.block.capPol = pol)
      (phase : s.block.capPhase = .awaitingFall) :
      Effect s (.capEdge pol) (s.respond (s.block.fallTransition s.sample) .none)
  | distNow : Effect s .distNow
      (s.respond s.block (.value (BitVec.ofNat s.config.opndW (distance s.config s.block.capPulseWidth))))
  | pollIdle (pending : s.block.dbPending = false) :
      Effect s .btnPoll (s.respond s.block (boolValue s.config false))
  | pollEarly (pending : s.block.dbPending = true) (gate : s.block.tickEn = true)
      (window : s.block.windowElapsed s.block.tickCount = false) :
      Effect s .btnPoll (s.respond s.block (boolValue s.config false))
  | pollGlitch (pending : s.block.dbPending = true) (gate : s.block.tickEn = true)
      (window : s.block.windowElapsed s.block.tickCount = true) (level : s.pressed = false) :
      Effect s .btnPoll (s.respond { s.block with dbPending := false } (boolValue s.config false))
  | pollPress (pending : s.block.dbPending = true) (gate : s.block.tickEn = true)
      (window : s.block.windowElapsed s.block.tickCount = true) (level : s.pressed = true) :
      Effect s .btnPoll (s.respond { s.block with dbPending := false, tickCount := 0 } (boolValue s.config true))
  | targetTooWide {dir : Direction} (fits : s.targetFits = false) :
      Effect s (.actSet dir) (s.faulting .illegalOp)
  | target {dir : Direction} (fits : s.targetFits = true) (gate : s.block.tickEn = true) :
      Effect s (.actSet dir) (s.respond
        { s.block with
          actSteps := s.stepsOperand
          actDir := dir
          actInterval := s.intervalOperand
          actLastTs := tsub s.block.tickCount s.intervalOperand } .none)
  | updateIdle (moving : s.block.idle = true) :
      Effect s .actUpdate (s.respond s.block (boolValue s.config false))
  | updateEarly (moving : s.block.idle = false) (gate : s.block.tickEn = true)
      (interval : s.block.intervalElapsed s.block.tickCount = false) :
      Effect s .actUpdate (s.respond s.block (boolValue s.config true))
  | updateStep (moving : s.block.idle = false) (gate : s.block.tickEn = true)
      (interval : s.block.intervalElapsed s.block.tickCount = true) :
      Effect s .actUpdate (s.respond (s.block.takeStep s.block.tickCount) (boolValue s.config true))

/-- An operation that answers a next state does what one of the cases says. -/
theorem exec_effect {i : Instr} {s t : State} (h : exec i s = .next t) : Effect s i t := by
  cases i with
  | tick =>
    rcases execTick_next.1 h with ⟨g, rfl⟩ | ⟨g, rfl⟩
    · exact .tick g
    · exact .tickIgnored g
  | capEdge pol =>
    rcases execCapEdge_next.1 h with ⟨g, rfl⟩ | ⟨g, a, rfl⟩ | ⟨g, a, rfl⟩
    · exact .captureRange g
    · exact .unarmed g a
    · cases hp : s.block.capPhase with
      | awaitingRise => simpa [Block.captureTransition, hp] using Effect.rise g a hp
      | awaitingFall => simpa [Block.captureTransition, hp] using Effect.fall g a hp
  | btnEdge =>
    rcases execBtnEdge_next.1 h with ⟨g, rfl⟩ | ⟨g, rfl⟩
    · exact .btnEdge g
    · exact .uninit (by simp) g nofun nofun
  | tickInit =>
    rcases execTickInit_next.1 h with ⟨g, rfl⟩ | ⟨g, rfl⟩
    · exact .tickReinit g
    · exact .tickInit g
  | tickNow =>
    rcases execTickNow_next.1 h with ⟨g, rfl⟩ | ⟨g, rfl⟩
    · exact .tickNow g
    · exact .uninit (by simp) g nofun nofun
  | tickReset =>
    rcases execTickReset_next.1 h with ⟨g, rfl⟩ | ⟨g, rfl⟩
    · exact .tickReset g
    · exact .uninit (by simp) g nofun nofun
  | distNow =>
    cases execDistNow_next.1 h
    exact .distNow
  | btnPoll =>
    rcases execBtnPoll_next.1 h with
      ⟨p, rfl⟩ | ⟨p, g, rfl⟩ | ⟨p, g, w, rfl⟩ | ⟨p, g, w, l, rfl⟩ | ⟨p, g, w, l, rfl⟩
    · exact .pollIdle p
    · exact .uninit (by simp) g (fun _ => p) nofun
    · exact .pollEarly p g w
    · exact .pollGlitch p g w l
    · exact .pollPress p g w l
  | actSet dir =>
    rcases execActSet_next.1 h with ⟨f, rfl⟩ | ⟨f, g, rfl⟩ | ⟨f, g, rfl⟩
    · exact .targetTooWide f
    · exact .uninit (by cases dir <;> simp) g nofun nofun
    · exact .target f g
  | actUpdate =>
    rcases execActUpdate_next.1 h with ⟨m, rfl⟩ | ⟨m, g, rfl⟩ | ⟨m, g, e, rfl⟩ | ⟨m, g, e, rfl⟩
    · exact .updateIdle m
    · exact .uninit (by simp) g nofun (fun _ => m)
    · exact .updateEarly m g e
    · exact .updateStep m g e

end Sys2Proof.Machine
end

