-- ==== Sys2Proof/Laws/PerInstr.lean ====
section
/-! SUPPORT. What holds of every operation's word, one lemma per constructor (LAWS.json, family `WordShape`). -/

namespace Sys2Proof.Laws.WordShape

/-- R70, R72: the word's reserved bits are 0, and bit `OP[3]` tells the Host's commands from the events. -/
def Statement (i : Instr) : Prop :=
  rsvField (encode i) = 0 ∧ ((encode i).getLsbD 3 = true ↔ i.agent = .host)

theorem tick : Statement .tick := by unfold Statement; decide
theorem capEdge (pol : Polarity) : Statement (.capEdge pol) := by cases pol <;> unfold Statement <;> decide
theorem btnEdge : Statement .btnEdge := by unfold Statement; decide
theorem tickInit : Statement .tickInit := by unfold Statement; decide
theorem tickNow : Statement .tickNow := by unfold Statement; decide
theorem tickReset : Statement .tickReset := by unfold Statement; decide
theorem distNow : Statement .distNow := by unfold Statement; decide
theorem btnPoll : Statement .btnPoll := by unfold Statement; decide
theorem actSet (dir : Direction) : Statement (.actSet dir) := by cases dir <;> unfold Statement <;> decide
theorem actUpdate : Statement .actUpdate := by unfold Statement; decide

end Sys2Proof.Laws.WordShape
end

