-- ==== Sys2Proof/Tests/Slice0.lean ====
section
/-! SUPPORT. The model's own tests. Expected results come from spec/95_test_vectors.md (vector ids in the comments) and
from the encoding columns of 30_encoding.md R72. Then, for each statement with hypotheses, a concrete state that meets
them, at the boundary of each clause. -/

namespace Sys2Proof.Tests

open Sys2Proof Sys2Proof.Machine

/-! ### A small bench -/

/-- The configuration of 95_test_vectors.md: the defaults, `DIST_DIV = 10` as its test choice, and a pattern of four
different codes in place of `PAT`. -/
def cfg : Config where
  tickW := 32
  timerW := 16
  timerMax := 65535
  stepW := 32
  distDiv := 10
  debounceWindow := 15
  btnPressedLevel := 0
  phasePattern := ⟨0x3, 0x6, 0xC, 0x9⟩
  tickPeriodUs := 1000
  clkHz := 48000000

/-- Block reset, and the same with the gate open at a count. -/
def idle : Block cfg := Block.reset cfg 0
def at' (n : BitVec 32) : Block cfg := { idle with tickEn := true, tickCount := n }

/-- A machine with block `b` and presentations `ps` to come. -/
def bench {c : Config} (b : Block c) (ps : List (Presentation c)) : State := ⟨c, b, ⟨0, 0, 0⟩, ps, []⟩

/-- A machine with block `b` and operands on the port, for a meaning called directly. -/
def loaded {c : Config} (b : Block c) (a bb : BitVec c.opndW) (v : Level) : State := ⟨c, b, ⟨a, bb, v⟩, [], []⟩

/-- An operation with its operands, presented by its own agent. -/
def op (i : Instr) (a b : BitVec 32 := 0) (v : Level := 0) : Presentation cfg := i.present a b v

/-- A raw Host word. -/
def raw (w : OpWord) : Presentation cfg := ⟨.host, w, 0, 0, 0⟩

/-- What one step leaves, read by `f`. -/
def seen {α : Type} (s : State) (f : State → α) : Option α :=
  match step s with
  | .next t => some (f t)
  | .fault _ | .refused _ => none

/-- What `n` steps leave; the start, if they stop. -/
def after (n : Nat) (s : State) : State :=
  match stepN n s with
  | .next t => t
  | .fault _ | .refused _ => s

/-! ### Well-formedness: each check refuses an ill-formed term (R6, R74) -/

theorem smoke_cfg_wf : cfg.wf = true := by decide
theorem smoke_specified_wf : Config.specified.wf = true := by decide
theorem smoke_width_zero : ({ cfg with stepW := 0 } : Config).wf = false := by decide
theorem smoke_timerMax_zero : ({ cfg with timerMax := 0 } : Config).wf = false := by decide
theorem smoke_timerMax_too_large : ({ cfg with timerMax := 65536 } : Config).wf = false := by decide
theorem smoke_distDiv_zero : ({ cfg with distDiv := 0 } : Config).wf = false := by decide
theorem smoke_window_too_large : ({ cfg with debounceWindow := 2 ^ 32 } : Config).wf = false := by decide
theorem smoke_event_agent_with_host_word :
    (⟨.tickIRQ, 0x09, 0, 0, 0⟩ : Presentation cfg).wf = false := by decide

/-! ### Decoding: words written from R72's columns -/

theorem test_decode_tick : decode 0b00000000#8 = some .tick := by decide
theorem test_decode_capEdge :
    decode 0b00000001#8 = some (.capEdge .rising) ∧ decode 0b00010001#8 = some (.capEdge .falling) := by decide
theorem test_decode_btnEdge : decode 0b00000010#8 = some .btnEdge := by decide
theorem test_decode_tickInit : decode 0b00001000#8 = some .tickInit := by decide
theorem test_decode_tickNow : decode 0b00001001#8 = some .tickNow := by decide
theorem test_decode_tickReset : decode 0b00001010#8 = some .tickReset := by decide
theorem test_decode_distNow : decode 0b00001011#8 = some .distNow := by decide
theorem test_decode_btnPoll : decode 0b00001100#8 = some .btnPoll := by decide
theorem test_decode_actSet :
    decode 0b00001101#8 = some (.actSet .cw) ∧ decode 0b00011101#8 = some (.actSet .ccw) := by decide
theorem test_decode_actUpdate : decode 0b00001110#8 = some .actUpdate := by decide
/-- R76: a reserved operation code, a reserved bit, a selector bit that is no field. -/
theorem test_decode_refuses :
    decode 0b00000101#8 = none ∧ decode 0b00101000#8 = none ∧ decode 0b00011110#8 = none := by decide
theorem test_decodeTableWord : decodeTableWord 8 0x1D = some (.actSet .ccw) ∧ decodeTableWord 16 0x100 = none := by decide

/-! ### One step each -/

/-- V-TICK-1 -/
theorem test_tick_ignored : seen (bench idle [op .tick]) (·.block.tickCount.toNat) = some 0 := by decide
/-- V-TICK-3 -/
theorem test_tick_wraps : seen (bench (at' 0xFFFFFFFF) [op .tick]) (·.block.tickCount.toNat) = some 0 := by decide
/-- V-TICK-4 -/
theorem test_tickInit :
    seen (bench idle [op .tickInit]) (fun t => (t.block.tickEn, t.block.tickCount.toNat)) = some (true, 0) := by decide
/-- V-TICK-13 -/
theorem test_tickInit_again_is_sticky : seen (bench { at' 7 with faultCause := 1 } [op .tickInit])
    (fun t => (t.lastFault, t.block.faultCause, t.block.tickCount.toNat)) = some (some .tickReinit, 1, 7) := by decide
/-- V-TICK-6 -/
theorem test_tickNow_uninit :
    seen (bench idle [op .tickNow]) (fun t => (t.lastFault, t.block.faultCause)) = some (some .tickUninit, 1) := by decide
/-- V-TICK-8 -/
theorem test_tickNow_max : seen (bench (at' 0xFFFFFFFF) [op .tickNow]) (·.lastValue) = some (some 4294967295) := by decide
/-- V-TICK-12 -/
theorem test_tickReset_keeps_timestamps :
    seen (bench { at' 5000 with actLastTs := (4990 : BitVec 32), dbPressTs := (4999 : BitVec 32) } [op .tickReset])
      (fun t => (t.block.tickCount.toNat, t.block.actLastTs.toNat, t.block.dbPressTs.toNat)) =
      some (0, 4990, 4999) := by decide
/-- V-CAP-5 -/
theorem test_capEdge_wrap_formula :
    seen (bench { idle with capPhase := .awaitingFall, capPol := .falling, capRiseTs := (65000 : BitVec 16) }
      [op (.capEdge .falling) 100])
      (fun t => (t.block.capFallTs.toNat, t.block.capPulseWidth.toNat, t.block.capPhase)) =
      some (100, 635, .awaitingRise) := by decide
/-- V-CAP-11 -/
theorem test_capEdge_range_before_polarity : seen (bench idle [op (.capEdge .falling) 70000])
    (fun t => (t.lastFault, t.block.faultCause)) = some (some .captureRange, 4) := by decide
/-- V-DIST-1 -/
theorem test_distNow_truncates :
    seen (bench { idle with capPulseWidth := (635 : BitVec 16) } [op .distNow]) (·.lastValue) = some (some 63) := by decide
/-- V-DIST-4, with its configuration -/
theorem test_distNow_divisor_one :
    seen (bench { Block.reset { cfg with distDiv := 1 } 0 with capPulseWidth := (65535 : BitVec 16) }
      [Instr.distNow.present 0 0 0]) (·.lastValue) = some (some 65535) := by decide
/-- V-DB-3 -/
theorem test_btnEdge_coalesces :
    seen (bench { at' 8 with dbPending := true, dbPressTs := (5 : BitVec 32) } [op .btnEdge])
      (fun t => (t.block.dbPending, t.block.dbPressTs.toNat)) = some (true, 8) := by decide
/-- V-DB-8 -/
theorem test_btnPoll_accepts_across_the_wrap :
    seen (bench { at' 8 with dbPending := true, dbPressTs := (0xFFFFFFF8 : BitVec 32) } [op .btnPoll])
      (fun t => (t.lastValue, t.block.dbPending, t.block.tickCount.toNat)) = some (some 1, false, 0) := by decide
/-- V-DB-6 -/
theorem test_btnPoll_rejects_a_glitch :
    seen (bench { at' 24 with dbPending := true, dbPressTs := (8 : BitVec 32) } [op .btnPoll 0 0 1])
      (fun t => (t.lastValue, t.block.dbPending, t.block.tickCount.toNat)) = some (some 0, false, 24) := by decide
/-- V-ENC-11 -/
theorem test_actSet_ccw : seen (bench (at' 7) [op (.actSet .ccw) 3 4])
    (fun t => (t.block.actSteps.toNat, t.block.actDir, t.block.actInterval.toNat, t.block.actLastTs.toNat)) =
    some (3, .ccw, 4, 3) := by decide
/-- V-ACT-15, with its configuration -/
theorem test_actSet_too_wide :
    seen (bench { Block.reset { cfg with stepW := 16 } 0 with tickEn := true }
      [(Instr.actSet .cw).present 0x10000 5 0])
      (fun t => (t.lastFault, t.block.faultCause, t.block.actSteps.toNat)) = some (some .illegalOp, 3, 0) := by decide
/-- V-ACT-12: elapsed 0xFFFFFF9C after a counter reset -/
theorem test_actUpdate_steps_early :
    seen (bench { at' 0 with actSteps := (2 : BitVec 32), actInterval := (10 : BitVec 32),
                             actLastTs := (100 : BitVec 32), actPhase := 1 } [op .actUpdate])
      (fun t => (t.lastValue, t.block.actPhase, t.block.phaseOut, t.block.actSteps.toNat)) =
      some (some 1, 2, 0xC, 1) := by decide
/-- R162: CCW wraps 0→3 (V-ACT-6b's first step) -/
theorem test_actUpdate_ccw_wraps :
    seen (bench { at' 10 with actSteps := (4 : BitVec 32), actDir := .ccw, actInterval := (10 : BitVec 32) }
      [op .actUpdate])
      (fun t => (t.block.actPhase, t.block.phaseOut, t.block.actLastTs.toNat)) = some (3, 0x9, 10) := by decide
/-- V-ENC-10: decode is checked first -/
theorem test_illegal_word_before_gate :
    seen (bench idle [raw 0x1A]) (fun t => (t.lastFault, t.block.faultCause)) = some (some .illegalOp, 3) := by decide
/-- V-ENC-12 -/
theorem test_event_agent_with_host_word_is_no_step :
    step (bench idle [⟨.tickIRQ, 0x09, 0, 0, 0⟩]) = .refused (.noStep .tickIRQ 0x09) := by rfl
/-- What the host asks: a word placed for the next step runs as the first operation after reset. -/
theorem test_withFetchWord :
    seen (State.reset.withFetchWord 8 0x08) (fun t => (t.block.tickEn, t.block.faultCause)) = some (true, 0) := by decide
/-- P2's first lines, as text -/
theorem test_assembleText :
    assembleText cfg 1 ["        tick.init                 ; [Host] 0x08", "ticks 2", "[ButtonIRQ] btn.edge", "pin BTN_IN = 0",
      "btn.poll", ".word 0x05"] =
      some [⟨.host, 0x08, 0, 0, 1⟩, ⟨.tickIRQ, 0x00, 0, 0, 1⟩, ⟨.tickIRQ, 0x00, 0, 0, 1⟩, ⟨.buttonIRQ, 0x02, 0, 0, 1⟩,
        ⟨.host, 0x0C, 0, 0, 0⟩, ⟨.host, 0x05, 0, 0, 0⟩] := by decide
/-- R79: an operand wider than the bus, or a form the rule does not give, is no line. -/
theorem test_assembleText_refuses :
    assembleText cfg 0 ["act.set cw, 4294967296, 1"] = none ∧ readLine "tick 3" = none ∧ readLine "act.set cw 1 2" = none := by
  decide

/-! ### Witnesses: the hypotheses of the statements can be met -/

/-- A press pending since count 8, polled at count 24 with the button pressed. -/
def pressAt24 : Block cfg := { at' 24 with dbPending := true, dbPressTs := (8 : BitVec 32) }

/-- A mover with two steps left, last stepped at 100, interval 10. -/
def mover (n : BitVec 32) : Block cfg :=
  { at' n with actSteps := (2 : BitVec 32), actInterval := (10 : BitVec 32), actLastTs := (100 : BitVec 32) }

/-- A capture awaiting the fall of a rise at 1000. -/
def echo : Block cfg := { idle with capPhase := .awaitingFall, capPol := .falling, capRiseTs := (1000 : BitVec 16) }

theorem witness_PresentedOperationsRoundTrip :
    (bench idle [op .tickInit]).config.wf = true ∧
    (bench idle [op .tickInit]).pending = Instr.tickInit.present (c := cfg) 0 0 0 :: [] :=
  ⟨by decide, rfl⟩

theorem witness_AgentsPresentOnlyTheirOwnWords :
    (∃ p, (bench idle [⟨.buttonIRQ, 0x00, 0, 0, 0⟩]).pending = p :: [] ∧ p.agent.mayPresent p.word = false) ∧
    (∃ p, (bench idle [raw 0xFF]).pending = p :: [] ∧ p.agent = .host) := by
  exact ⟨⟨_, rfl, by decide⟩, ⟨_, rfl, by decide⟩⟩

theorem witness_HostDecodingFollowsTheCaseTable :
    ∃ p, (bench idle [raw 0x0F]).pending = p :: [] ∧ admission p.agent p.word = .illegal := ⟨_, rfl, by decide⟩

theorem witness_IllegalHostWordsFault :
    ∃ p, (bench idle [raw 0x20]).pending = p :: [] ∧ p.agent = .host ∧ admission .host p.word = .illegal :=
  ⟨_, rfl, by decide⟩

theorem witness_StepRunsTheDecodedOperation :
    ∃ p i, (bench idle [op (.actSet .ccw) 3 4]).pending = p :: [] ∧ decode p.word = some i ∧ p.agent = i.agent :=
  ⟨_, .actSet .ccw, rfl, by decide, by decide⟩

theorem witness_IllFormedConfigurationsAreRefused :
    (bench (Block.reset { cfg with distDiv := 0 } 0) []).config.wf = false := by decide

theorem witness_FaultCauseRecordsTheFirstFaultOfARun :
    ∃ t, stepN 2 (State.powerOn cfg 0 [op .tickNow, raw 0x05]) = .next t ∧ t.block.faultCause = 1 := ⟨_, rfl, by decide⟩

theorem witness_FaultsArePrecise :
    ∃ t, step (bench idle [op .tickNow]) = .next t ∧ t.lastFault = some .tickUninit := ⟨_, rfl, by decide⟩

theorem witness_FaultConditionsAreCheckedInOrder :
    (∃ p, (bench idle [raw 0x18]).pending = p :: [] ∧ p.agent = .host ∧ decode p.word = none) ∧
    (let s := loaded (Block.reset { cfg with stepW := 16 } 0) 0x10000 0 0
     2 ^ s.config.stepW ≤ s.port.a.toNat) ∧
    (let s := loaded (Block.reset { cfg with tickW := 16 } 0) 0 0x10000 0
     2 ^ s.config.tickW ≤ s.port.b.toNat) ∧
    (loaded idle 65536 0 0).config.timerMax < (loaded idle 65536 0 0).port.a.toNat ∧
    (let s := loaded idle 0xFFFFFFFF 0xFFFFFFFF 0
     s.port.a.toNat < 2 ^ s.config.stepW ∧ s.port.b.toNat < 2 ^ s.config.tickW ∧ s.block.tickEn = false) := by
  exact ⟨⟨_, rfl, by decide⟩, by decide, by decide, by decide, by decide⟩

theorem witness_EveryAdmittedPresentationIsAnswered :
    ∃ p, (bench { at' 7 with faultCause := 2 } [op .tickNow]).pending = p :: [] ∧ p.agent.mayPresent p.word = true :=
  ⟨_, rfl, by decide⟩

theorem witness_EachStepTakesOnePresentation : ∃ t, step (bench (at' 7) [op .tick, op .tickNow]) = .next t := ⟨_, rfl⟩

theorem witness_EveryInterleavingRuns :
    (∀ p ∈ (bench (at' 7) [op .tick, raw 0x05]).pending, p.wf = true) ∧
    [raw 0x05, op .tick].Perm (bench (at' 7) [op .tick, raw 0x05]).pending := by
  exact ⟨by decide, List.Perm.swap _ _ _⟩

theorem witness_FieldsAreWrittenOnlyByListedOperations :
    ∃ t, exec .btnPoll (loaded pressAt24 0 0 0) = .next t ∧ t.block.tickCount.toNat = 0 := ⟨_, rfl, by decide⟩

theorem witness_FieldsChangeOnlyUnderTheirOwners :
    (∃ p t, (bench pressAt24 [op .btnPoll]).pending = p :: [] ∧ step (bench pressAt24 [op .btnPoll]) = .next t ∧
      p.agent = .host ∧ (bench pressAt24 [op .btnPoll]).block.dbPending = true ∧ t.block.dbPending = false) ∧
    (∃ p t, (bench (at' 5) [op .btnEdge]).pending = p :: [] ∧ step (bench (at' 5) [op .btnEdge]) = .next t ∧
      p.agent = .buttonIRQ ∧ (bench (at' 5) [op .btnEdge]).block.dbPending = false ∧ t.block.dbPending = true) := by
  exact ⟨⟨_, _, rfl, rfl, by decide⟩, ⟨_, _, rfl, rfl, by decide⟩⟩

theorem witness_TickCountsOncePerEventWhileGateOpen :
    (loaded idle 0 0 0).block.tickEn = false ∧ (loaded (at' 0xFFFFFFFF) 0 0 0).block.tickEn = true ∧
    (loaded (at' 0xFFFFFFFF) 0 0 0).block.tickCount.toNat = 2 ^ 32 - 1 := by decide

theorem witness_ClosedGateFaultsCounterOperations :
    (let s := loaded { idle with dbPending := true, actSteps := (1 : BitVec 32) } 1 5 0
     s.block.tickEn = false ∧ s.block.dbPending = true ∧ s.targetFits = true ∧ s.block.actSteps ≠ 0) ∧
    (let s := loaded idle 0 0 0
     s.block.tickEn = false ∧ s.block.dbPending = false ∧ s.block.actSteps = 0) := by decide

theorem witness_inv : (loaded idle 0 0 0).Inv := by constructor <;> decide

theorem witness_TickInitOpensTheGateOnce :
    (loaded idle 0 0 0).block.tickEn = false ∧ (loaded (at' 7) 0 0 0).block.tickEn = true := by decide

theorem witness_UnusedOperandsAreIgnored :
    (∃ t, exec .tickNow (loaded (at' 7) 1 2 1) = .next t) ∧
    (∃ t, exec (.capEdge .rising) (loaded idle 65535 1 1) = .next t) ∧
    (∃ t, exec (.actSet .cw) (loaded (at' 7) 1 2 1) = .next t) ∧ (∃ t, exec .btnPoll (loaded pressAt24 1 2 0) = .next t) :=
  ⟨⟨_, rfl⟩, ⟨_, rfl⟩, ⟨_, rfl⟩, ⟨_, rfl⟩⟩

theorem witness_TickNowAnswersTheWholeCount :
    (loaded (at' 0xFFFFFFFF) 0 0 0).block.tickEn = true ∧ (loaded idle 0 0 0).block.tickEn = false := by decide

theorem witness_TickResetClearsOnlyTheCount :
    (loaded (at' 1) 0 0 0).block.tickEn = true ∧ (loaded idle 0 0 0).block.tickEn = false := by decide

theorem witness_ButtonEdgeRecordsTheCount :
    (loaded { at' 8 with dbPending := true } 0 0 0).block.tickEn = true ∧ (loaded idle 0 0 0).block.tickEn = false := by
  decide

theorem witness_TheSourceScenarioTakesOneStep :
    cfg.wf = true ∧ 10 ≤ cfg.tickW ∧ (at' 1000).tickEn = true ∧ (at' 1000).tickCount.toNat = 1000 := by decide

theorem witness_CountingLaw :
    let s := bench (at' 0xFFFFFFFF) [op .tickNow, op .tick, op .btnPoll, op .tick, op .tickNow]
    ∃ t u v, s.nextIs .tickNow = true ∧ step s = .next t ∧ t.lastValue = some 4294967295 ∧ stepN 3 t = .next u ∧
      countAlong State.resetsCount 3 t = 0 ∧ u.nextIs .tickNow = true ∧ step u = .next v ∧ v.lastValue = some 1 :=
  ⟨_, _, _, by decide, rfl, by decide, rfl, by decide, by decide, rfl, by decide⟩

theorem witness_CountingLaw_no_wrap_and_no_tick :
    (let s := bench (at' 5) [op .tickNow, op .tick, op .tickNow]
     ∃ t u v, step s = .next t ∧ t.lastValue = some 5 ∧ stepN 1 t = .next u ∧ step u = .next v ∧ v.lastValue = some 6 ∧
       countAlong (State.nextIs .tick) 1 t < 2 ^ s.config.tickW - 5) ∧
    (let s := bench (at' 5) [op .tickNow, op .tickNow]
     ∃ t v, step s = .next t ∧ t.lastValue = some 5 ∧ step t = .next v ∧ v.lastValue = some 5 ∧
       countAlong (State.nextIs .tick) 0 t = 0) := by
  exact ⟨⟨_, _, _, rfl, by decide, rfl, rfl, by decide, by decide⟩, ⟨_, _, rfl, by decide, rfl, by decide, by decide⟩⟩

theorem witness_TickSourceCannotFailOnceInitialised :
    (∃ t, step (bench (at' 7) [op .tickReset]) = .next t ∧ (bench (at' 7) [op .tickReset]).nextIs .tickReset = true ∧
      t.lastFault = none) ∧
    (∃ t, step (bench (at' 7) [op .tickInit]) = .next t ∧ (bench (at' 7) [op .tickInit]).nextIs .tickInit = true ∧
      t.lastFault = some .tickReinit) := by
  exact ⟨⟨_, rfl, by decide, by decide⟩, ⟨_, rfl, by decide, by decide⟩⟩

theorem witness_TickCountHasExactlyFourWriters :
    (∃ t, step (bench (at' 41) [op .tick]) = .next t ∧ t.block.tickCount.toNat = 42) ∧
    (∃ t, step (bench { idle with tickCount := (9 : BitVec 32) } [op .tickInit]) = .next t ∧ t.block.tickCount.toNat = 0) ∧
    (∃ t, step (bench (at' 9) [op .tickReset]) = .next t ∧ t.block.tickCount.toNat = 0) ∧
    (∃ t, step (bench pressAt24 [op .btnPoll]) = .next t ∧ (bench pressAt24 [op .btnPoll]).acceptsPress = true) := by
  exact ⟨⟨_, rfl, by decide⟩, ⟨_, rfl, by decide⟩, ⟨_, rfl, by decide⟩, ⟨_, rfl, by decide⟩⟩

theorem witness_OnlyTickInitOpensTheGate :
    (∃ t, step (bench idle [op .tickInit]) = .next t ∧ t.block.tickEn = true) ∧
    (∃ t, step (bench idle [op .tick]) = .next t ∧ (bench idle [op .tick]).nextIs .tickInit = false) := by
  exact ⟨⟨_, rfl, by decide⟩, ⟨_, rfl, by decide⟩⟩

theorem witness_CaptureEdgeChecksRangeThenPolarity :
    (loaded idle 65536 0 0).config.timerMax < (loaded idle 65536 0 0).port.a.toNat ∧
    (let s := loaded idle 65535 0 0
     s.port.a.toNat ≤ s.config.timerMax ∧ Polarity.falling ≠ s.block.capPol ∧ Polarity.rising = s.block.capPol ∧
       s.block.capPhase = .awaitingRise) ∧
    (let s := loaded echo 65535 0 0
     s.port.a.toNat ≤ s.config.timerMax ∧ Polarity.falling = s.block.capPol ∧ s.block.capPhase = .awaitingFall) := by
  decide

theorem witness_RisingTransitionStoresTheSample :
    let s := loaded idle 65535 0 0
    s.config.wf = true ∧ s.port.a.toNat ≤ s.config.timerMax ∧ s.block.capPol = .rising ∧
      s.block.capPhase = .awaitingRise := by decide

theorem witness_FallingTransitionStoresThePulseWidth :
    (let s := loaded echo 1000 0 0
     s.config.wf = true ∧ s.port.a.toNat ≤ s.config.timerMax ∧ s.block.capPol = .falling ∧
       s.block.capPhase = .awaitingFall ∧ s.block.capRiseTs.toNat ≤ s.config.timerMax ∧
       s.block.capRiseTs.toNat ≤ s.port.a.toNat) ∧
    (let s := loaded echo 999 0 0
     s.config.wf = true ∧ s.port.a.toNat ≤ s.config.timerMax ∧ s.block.capPol = .falling ∧
       s.block.capPhase = .awaitingFall ∧ s.block.capRiseTs.toNat ≤ s.config.timerMax ∧
       s.port.a.toNat < s.block.capRiseTs.toNat) := by decide

theorem witness_AFallIsMeasuredAgainstItsRise :
    let s := bench idle [op (.capEdge .rising) 65000, op (.capEdge .rising) 200, op (.capEdge .falling) 100]
    ∃ p t u q v, s.pending.head? = some p ∧ s.nextIs (.capEdge .rising) = true ∧ p.a.toNat = 65000 ∧
      s.block.capPol = .rising ∧ s.block.capPhase = .awaitingRise ∧ step s = .next t ∧ stepN 1 t = .next u ∧
      countAlong State.fallsNext 1 t = 0 ∧ u.pending = q :: [] ∧ u.fallsNext = true ∧ q.a.toNat = 100 ∧
      step u = .next v ∧ v.block.capPulseWidth.toNat = 635 :=
  ⟨_, _, _, _, _, rfl, by decide, by decide, by decide, by decide, rfl, rfl, by decide, rfl, by decide, by decide, rfl,
    by decide⟩

theorem witness_MissingEchoLeavesTheMachineAwaitingFall :
    let s := bench echo [op (.capEdge .rising) 900, op .distNow]
    ∃ t, s.block.capPhase = .awaitingFall ∧ s.block.capPol = .falling ∧ stepN 2 s = .next t ∧
      countAlong State.fallsNext 2 s = 0 := ⟨_, by decide, by decide, rfl, by decide⟩

theorem witness_CaptureDependsOnNoOtherSubBlock :
    let s := bench echo [op (.capEdge .falling) 1580]
    ∃ t, ({ pressAt24 with capPhase := .awaitingFall, capPol := .falling, capRiseTs := (1000 : BitVec 16) } :
        Block cfg).captureView = s.block.captureView ∧ stepN 1 s = .next t ∧ t.block.capPulseWidth.toNat = 580 :=
  ⟨_, by decide, rfl, by decide⟩

theorem witness_ButtonPollResolvesThePendingRecord :
    (loaded idle 0 0 0).block.dbPending = false ∧
    (let s := loaded { pressAt24 with tickCount := (23 : BitVec 32) } 0 0 0
     s.block.dbPending = true ∧ s.block.tickEn = true ∧
       (s.block.tickCount - s.block.dbPressTs).toNat ≤ s.config.debounceWindow) ∧
    (let s := loaded pressAt24 0 0 1
     s.block.dbPending = true ∧ s.block.tickEn = true ∧
       s.config.debounceWindow < (s.block.tickCount - s.block.dbPressTs).toNat ∧
       s.port.btnIn ≠ s.config.btnPressedLevel) ∧
    (let s := loaded pressAt24 0 0 0
     s.config.debounceWindow < (s.block.tickCount - s.block.dbPressTs).toNat ∧
       s.port.btnIn = s.config.btnPressedLevel) := by decide

theorem witness_EdgesCoalesceIntoOneRecord :
    let s := bench (at' 8) [op .btnEdge, op .tick]
    ∃ t u, s.nextIs .btnEdge = true ∧ s.block.tickEn = true ∧ step s = .next t ∧ stepN 1 t = .next u ∧
      countAlong (State.nextIs .btnEdge) 1 t = 0 ∧ countAlong (State.nextIs .btnPoll) 1 t = 0 :=
  ⟨_, _, by decide, by decide, rfl, rfl, by decide, by decide⟩

theorem witness_EachRecordIsAcceptedAtMostOnce :
    ∃ t, stepN 2 (bench pressAt24 [op .btnPoll, op .btnPoll]) = .next t ∧
      countAlong State.acceptsPress 2 (bench pressAt24 [op .btnPoll, op .btnPoll]) = 1 := ⟨_, rfl, by decide⟩

theorem witness_BouncesBeforeAResolvingPollGiveOnePress :
    let s := bench { at' 24 with dbPressTs := (24 : BitVec 32) }
      ([op .btnEdge, op .btnPoll, op .btnEdge] ++ List.replicate 16 (op .tick) ++ [op .btnPoll])
    ∃ t u, stepN 3 s = .next t ∧ countAlong State.resolvesRecord 3 s = 0 ∧ stepN 17 t = .next u ∧
      countAlong (State.nextIs .btnEdge) 17 t = 0 ∧ countAlong State.acceptsPress 20 s = 1 :=
  ⟨_, _, rfl, by decide, rfl, by decide, by decide⟩

theorem witness_PressesAreAcceptedOnlyAfterTheWindow :
    let s := bench (at' 0) (op .btnEdge :: List.replicate 16 (op .tick) ++ [op .btnPoll])
    ∃ t u, s.nextIs .btnEdge = true ∧ s.block.tickEn = true ∧ step s = .next t ∧ stepN 16 t = .next u ∧
      countAlong (State.nextIs .btnEdge) 16 t = 0 ∧ countAlong State.resetsCount 16 t = 0 ∧ u.acceptsPress = true :=
  ⟨_, _, by decide, by decide, rfl, rfl, by decide, by decide, by decide⟩

theorem witness_ActSetRecordsTheTarget :
    (let s := loaded (at' 0) 0xFFFFFFFF 0xFFFFFFFF 0
     s.port.a.toNat < 2 ^ s.config.stepW ∧ s.port.b.toNat < 2 ^ s.config.tickW ∧ s.block.tickEn = true) ∧
    (let s := loaded (Block.reset { cfg with stepW := 16 } 0) 0x10000 0 0
     2 ^ s.config.stepW ≤ s.port.a.toNat) ∧
    (let s := loaded idle 1 5 0
     s.port.a.toNat < 2 ^ s.config.stepW ∧ s.port.b.toNat < 2 ^ s.config.tickW ∧ s.block.tickEn = false) := by decide

theorem witness_ActUpdateTakesAtMostOneStep :
    (loaded idle 0 0 0).block.actSteps = 0 ∧
    (let s := loaded (mover 109) 0 0 0
     s.block.actSteps ≠ 0 ∧ s.block.tickEn = true ∧
       (s.block.tickCount - s.block.actLastTs).toNat < s.block.actInterval.toNat) ∧
    (let s := loaded (mover 110) 0 0 0
     s.block.actSteps ≠ 0 ∧ s.block.tickEn = true ∧ s.block.actDir = .cw ∧
       s.block.actInterval.toNat ≤ (s.block.tickCount - s.block.actLastTs).toNat) ∧
    (let s := loaded { mover 110 with actDir := .ccw } 0 0 0
     s.block.actDir = .ccw ∧ s.block.actInterval.toNat ≤ (s.block.tickCount - s.block.actLastTs).toNat) := by decide

theorem witness_ActUpdateAnswersWhetherStepsRemained :
    (bench (mover 109) [op .actUpdate]).Inv ∧ (bench (mover 109) [op .actUpdate]).nextIs .actUpdate = true ∧
    ∃ t, step (bench (mover 109) [op .actUpdate]) = .next t := by
  exact ⟨by constructor <;> decide, by decide, _, rfl⟩

theorem witness_StepsAreAtLeastAnIntervalApart :
    let s := bench (mover 110) (op .actUpdate :: List.replicate 10 (op .tick) ++ [op .actUpdate])
    ∃ t u, s.takesStep = true ∧ step s = .next t ∧ stepN 10 t = .next u ∧ countAlong State.resetsCount 10 t = 0 ∧
      countAlong State.setsTarget 10 t = 0 ∧ u.takesStep = true :=
  ⟨_, _, by decide, rfl, rfl, by decide, by decide, by decide⟩

theorem witness_UpdatesWithoutATickTakeOneStep :
    let s := bench (mover 110) (List.replicate 3 (op .actUpdate))
    ∃ t, stepN 3 s = .next t ∧ countAlong (State.nextIs .actUpdate) 3 s = 3 ∧ s.block.actInterval ≠ 0 ∧
      countAlong State.takesStep 3 s = 1 := ⟨_, rfl, by decide, by decide, by decide⟩

theorem witness_StepsRemainingGoDownOnlyByStepping :
    (∃ t, step (bench (mover 110) [op .actUpdate]) = .next t ∧ (bench (mover 110) [op .actUpdate]).setsTarget = false ∧
      (bench (mover 110) [op .actUpdate]).takesStep = true) ∧
    (∃ t, step (bench (mover 109) [op .actUpdate]) = .next t ∧ (bench (mover 109) [op .actUpdate]).setsTarget = false ∧
      (bench (mover 109) [op .actUpdate]).takesStep = false) := by
  exact ⟨⟨_, rfl, by decide, by decide⟩, ⟨_, rfl, by decide, by decide⟩⟩

theorem witness_PhaseFollowsTheStepsTaken :
    let s := bench { mover 110 with actInterval := (0 : BitVec 32), actDir := .ccw } [op .actUpdate, op .actUpdate]
    ∃ t, stepN 2 s = .next t ∧ countAlong State.setsTarget 2 s = 0 ∧ t.block.actPhase = 2 := ⟨_, rfl, by decide, by decide⟩

theorem witness_APacedPollTakesItsStep :
    let s := bench (mover 100) (List.replicate 10 (op .tick) ++ [op .actUpdate])
    ∃ t u, s.block.tickEn = true ∧ s.block.actSteps ≠ 0 ∧ s.block.actLastTs = s.block.tickCount ∧
      s.block.actInterval.toNat ≤ 10 ∧ 10 < 2 ^ s.config.tickW ∧ stepN 10 s = .next t ∧
      countAlong (State.nextIs .tick) 10 s = 10 ∧ t.nextIs .actUpdate = true ∧ step t = .next u :=
  ⟨_, _, by decide, by decide, by decide, by decide, by decide, rfl, by decide, by decide, rfl⟩

theorem witness_CounterResetAgesHeldTimestamps :
    (let s := loaded (mover 0) 0 0 0
     s.block.tickEn = true ∧ s.block.tickCount.toNat < s.block.actLastTs.toNat ∧ s.block.actSteps ≠ 0 ∧
       s.block.actInterval.toNat ≤ 2 ^ s.config.tickW - s.block.actLastTs.toNat + s.block.tickCount.toNat) ∧
    (let s := loaded { pressAt24 with tickCount := (3 : BitVec 32) } 0 0 0
     s.block.tickEn = true ∧ s.block.tickCount.toNat < s.block.dbPressTs.toNat ∧ s.block.dbPending = true ∧
       s.config.debounceWindow < 2 ^ s.config.tickW - s.block.dbPressTs.toNat + s.block.tickCount.toNat) := by decide

theorem witness_EveryStepKeepsTheInvariants :
    (bench pressAt24 [op .btnPoll]).Inv ∧ ∃ t, step (bench pressAt24 [op .btnPoll]) = .next t := by
  exact ⟨by constructor <;> decide, _, rfl⟩

theorem witness_ReachableStatesMeetTheInvariants :
    ∃ t, stepN 3 (State.powerOn cfg 0 [op .tickInit, op .btnEdge, op (.capEdge .rising) 65535]) = .next t ∧
      t.block.dbPending = true := ⟨_, rfl, by decide⟩

theorem witness_FaultsAreExactlyBrokenDuties :
    (∃ t, stepN 2 (bench idle [op .tickInit, op .tickNow]) = .next t ∧
      countAlong State.breaksDuty 2 (bench idle [op .tickInit, op .tickNow]) = 0) ∧
    (∃ t, step (bench idle [op .tickNow]) = .next t ∧ (bench idle [op .tickNow]).breaksDuty = true) := by
  exact ⟨⟨_, rfl, by decide⟩, ⟨_, rfl, by decide⟩⟩

theorem witness_ScriptLinesExpand : assemble cfg 0 [] = some [] := by decide

end Sys2Proof.Tests
end

/-! PROOFS. The scope of the step (00_scope.md R6 and R10): which configurations are the block's, what a step on an
admitted presentation is, and what a step takes and gives. -/

namespace Sys2Proof

/-! ### Well-formed configurations (R6) -/

theorem Config.widthsPositive_iff {c : Config} :
    c.widthsPositive = true ↔ 1 ≤ c.tickW ∧ 1 ≤ c.timerW ∧ 1 ≤ c.stepW := by
  simp [Config.widthsPositive, Nat.one_le_iff_ne_zero, and_assoc]

theorem Config.timerMaxInRange_iff {c : Config} :
    c.timerMaxInRange = true ↔ 1 ≤ c.timerMax ∧ c.timerMax ≤ 2 ^ c.timerW - 1 := by
  simp [Config.timerMaxInRange, Nat.one_le_iff_ne_zero, Nat.le_sub_one_iff_lt (Nat.two_pow_pos _)]

theorem Config.distDivPositive_iff {c : Config} : c.distDivPositive = true ↔ 1 ≤ c.distDiv := by
  simp [Config.distDivPositive, Nat.one_le_iff_ne_zero]

theorem Config.windowInRange_iff {c : Config} :
    c.windowInRange = true ↔ c.debounceWindow ≤ 2 ^ c.tickW - 1 := by
  simp [Config.windowInRange, Nat.le_sub_one_iff_lt (Nat.two_pow_pos _)]

theorem Config.wf_iff {c : Config} : c.wf = true ↔
    (1 ≤ c.tickW ∧ 1 ≤ c.timerW ∧ 1 ≤ c.stepW) ∧ (1 ≤ c.timerMax ∧ c.timerMax ≤ 2 ^ c.timerW - 1) ∧
    1 ≤ c.distDiv ∧ c.debounceWindow ≤ 2 ^ c.tickW - 1 := by
  rw [Config.wf, Bool.and_eq_true, Bool.and_eq_true, Bool.and_eq_true, widthsPositive_iff, timerMaxInRange_iff,
    distDivPositive_iff, windowInRange_iff, and_assoc, and_assoc]

theorem level_toNat_mem (v : Level) : v.toNat ∈ [0, 1] := by
  have hv : v.toNat < 2 := v.isLt
  simp only [List.mem_cons, List.not_mem_nil, or_false]
  omega

/-! ### Admission (R74) -/

theorem admission_of_decode {agent : Agent} {w : OpWord} {i : Instr} (hd : decode w = some i)
    (ha : agent = i.agent) : admission agent w = .operation i := by
  simp [admission, hd, ha]

/-- What R74 lists as an agent's word is a step of that agent. -/
theorem admission_ne_noStep {agent : Agent} {w : OpWord} (h : agent.mayPresent w = true) :
    admission agent w ≠ .noStep := by
  cases agent with
  | tickIRQ =>
    obtain rfl : w = 0x00 := by simpa [Agent.mayPresent] using h
    decide
  | captureIRQ =>
    obtain rfl | rfl : w = 0x01 ∨ w = 0x11 := by simpa [Agent.mayPresent] using h
    · decide
    · decide
  | buttonIRQ =>
    obtain rfl : w = 0x02 := by simpa [Agent.mayPresent] using h
    decide
  | host =>
    unfold admission
    (repeat' split) <;> simp [rejected]

end Sys2Proof

namespace Sys2Proof.Machine

/-! ### What a step is, by the admission of the next presentation -/

theorem step_of_not_wf {s : State} (h : s.config.wf = false) : step s = .refused .notAConfiguration := by
  simp [step, fetch, h]

section
variable {s : State} {p : Presentation s.config} {rest : List (Presentation s.config)}
  (hwf : s.config.wf = true) (hp : s.pending = p :: rest)
include hwf hp

theorem step_of_operation {i : Instr} (ha : admission p.agent p.word = .operation i) :
    step s = exec i (s.latch p rest) := by
  rw [step, fetch_operation.2 ⟨p, rest, hwf, hp, ha, rfl⟩]

theorem step_of_illegal (ha : admission p.agent p.word = .illegal) :
    step s = .next ((s.latch p rest).faulting .illegalOp) :=
  step_next.2 ⟨p, rest, hwf, hp, .inr ⟨ha, rfl⟩⟩

/-- An admitted presentation is answered: a block and one response on the latched state. -/
theorem step_answers (ha : admission p.agent p.word ≠ .noStep) :
    ∃ (b : Block s.config) (r : Response s.config), step s = .next ((s.latch p rest).respond b r) := by
  cases h : admission p.agent p.word with
  | operation i =>
    rw [step_of_operation hwf hp h]
    exact exec_answers i (s.latch p rest)
  | illegal => exact ⟨_, _, step_of_illegal hwf hp h⟩
  | noStep => exact absurd h ha

end

/-- A step that answers has latched one presentation and answered it. -/
theorem step_next_respond {s t : State} (h : step s = .next t) :
    ∃ (p : Presentation s.config) (rest : List (Presentation s.config)) (b : Block s.config) (r : Response s.config),
      s.pending = p :: rest ∧ t = (s.latch p rest).respond b r := by
  obtain ⟨p, rest, -, hp, ⟨i, -, he⟩ | ⟨-, rfl⟩⟩ := step_next.1 h
  · obtain ⟨b, r, hb⟩ := exec_answers i (s.latch p rest)
    cases he.symm.trans hb
    exact ⟨p, rest, b, r, hp, rfl⟩
  · exact ⟨p, rest, _, _, hp, rfl⟩

/-! ### The obligations -/

/-- Settles O14: an admitted word is an operation, which answers (`exec_answers`), or an illegal Host word, which faults;
no case reads `FAULT_CAUSE` to stop. -/
theorem everyAdmittedPresentationIsAnswered : Obligations.EveryAdmittedPresentationIsAnswered :=
  fun _ _ _ hwf hp hmay => step_answers hwf hp (admission_ne_noStep hmay)

/-- Settles O15: the latched state's port, pending list and configuration are those the statement writes out. -/
theorem eachStepTakesOnePresentation : Obligations.EachStepTakesOnePresentation :=
  fun _ _ h => step_next_respond h

/-- Settles O8: a word that decodes to an operation of its agent is admitted as that operation. -/
theorem stepRunsTheDecodedOperation : Obligations.StepRunsTheDecodedOperation :=
  fun _ _ _ _ hwf hp hd ha => step_of_operation hwf hp (admission_of_decode hd ha)

/-- Settles O9: the four checks of `Config.wf` are R6's bounds, and fetching refuses any other configuration. -/
theorem illFormedConfigurationsAreRefused : Obligations.IllFormedConfigurationsAreRefused := by
  refine ⟨fun c => Config.wf_iff, fun c p => ⟨level_toNat_mem _, ?_⟩, fun s h => step_of_not_wf h⟩
  exact Nat.le_of_lt_succ (c.phasePattern.pattern p).isLt

end Sys2Proof.Machine

/-! PROOFS. The architectural state (10_state.md): which operation and which agent writes each field (R22, R39), the
fault record (R37), the invariants (R40), the capture sub-block's independence (R126) and the tick source's writers
(R23, R24). -/

namespace Sys2Proof.Machine

/-! ### R22: what each operation may write -/

/-- R22's "written by" column, `FAULT_CAUSE` apart: from the block `b` to the block `k`, the operation `i` has written no
field that the column does not list for it. -/
structure Block.WritesListed {c : Config} (i : Instr) (b k : Block c) : Prop where
  tickCount : i ∉ [.tick, .tickInit, .tickReset, .btnPoll] → k.tickCount = b.tickCount
  tickEn : i ≠ .tickInit → k.tickEn = b.tickEn
  capture : i ∉ [.capEdge .rising, .capEdge .falling] →
    k.capPhase = b.capPhase ∧ k.capPol = b.capPol ∧ k.capRiseTs = b.capRiseTs ∧ k.capFallTs = b.capFallTs ∧
    k.capPulseWidth = b.capPulseWidth
  dbPending : i ∉ [.btnEdge, .btnPoll] → k.dbPending = b.dbPending
  dbPressTs : i ≠ .btnEdge → k.dbPressTs = b.dbPressTs
  target : i ∉ [.actSet .cw, .actSet .ccw, .actUpdate] → k.actSteps = b.actSteps ∧ k.actLastTs = b.actLastTs
  heading : i ∉ [.actSet .cw, .actSet .ccw] → k.actDir = b.actDir ∧ k.actInterval = b.actInterval
  drive : i ≠ .actUpdate → k.actPhase = b.actPhase ∧ k.phaseOut = b.phaseOut

namespace Block.WritesListed

variable {c : Config} {i : Instr} {b k : Block c}

theorem refl (i : Instr) (b : Block c) : WritesListed i b b := by
  constructor <;> simp

theorem recordFault (i : Instr) (b : Block c) (cause : Cause) : WritesListed i b (b.recordFault cause) := by
  constructor <;> simp

theorem captureView (h : WritesListed i b k) (hi : i ∉ [.capEdge .rising, .capEdge .falling]) :
    k.captureView = b.captureView := by
  obtain ⟨hphase, hpol, hrise, hfall, hwidth⟩ := h.capture hi
  simp only [Block.captureView, hphase, hpol, hrise, hfall, hwidth]

theorem actuatorView (h : WritesListed i b k) (hi : i ∉ [.actSet .cw, .actSet .ccw, .actUpdate]) :
    k.actuatorView = b.actuatorView := by
  obtain ⟨hsteps, hlast⟩ := h.target hi
  obtain ⟨hdir, hinterval⟩ := h.heading (by simp_all)
  obtain ⟨hphase, hout⟩ := h.drive (by simp_all)
  simp only [Block.actuatorView, hsteps, hlast, hdir, hinterval, hphase, hout]

end Block.WritesListed

section
variable {s t : State} {i : Instr}

/-- An operation faults, or it answers no fault, keeps `FAULT_CAUSE` and writes only the fields listed for it. -/
theorem exec_faults_or_writes (h : exec i s = .next t) :
    (∃ cause, t = s.faulting cause) ∨
    ∃ (b : Block s.config) (r : Response s.config), t = s.respond b r ∧ r.cause? = none ∧
      b.faultCause = s.block.faultCause ∧ s.block.WritesListed i b := by
  have keep := fun i => Block.WritesListed.refl i s.block
  cases exec_effect h with
  | tickReinit _ | uninit _ _ _ _ | captureRange _ | targetTooWide _ => exact .inl ⟨_, rfl⟩
  | tickIgnored _ | tickNow _ | unarmed _ _ | distNow | pollIdle _ | pollEarly _ _ _ | updateIdle _
  | updateEarly _ _ _ => exact .inr ⟨_, _, rfl, rfl, rfl, keep _⟩
  | tick _ | tickReset _ => exact .inr ⟨_, _, rfl, rfl, rfl, { keep _ with tickCount := by simp }⟩
  | tickInit _ => exact .inr ⟨_, _, rfl, rfl, rfl, { keep _ with tickCount := by simp, tickEn := by simp }⟩
  | btnEdge _ => exact .inr ⟨_, _, rfl, rfl, rfl, { keep _ with dbPending := by simp, dbPressTs := by simp }⟩
  | @rise pol _ _ _ | @fall pol _ _ _ =>
    exact .inr ⟨_, _, rfl, rfl, rfl, { keep _ with capture := by cases pol <;> simp }⟩
  | pollGlitch _ _ _ _ => exact .inr ⟨_, _, rfl, rfl, rfl, { keep _ with dbPending := by simp }⟩
  | pollPress _ _ _ _ =>
    exact .inr ⟨_, _, rfl, rfl, rfl, { keep _ with tickCount := by simp, dbPending := by simp }⟩
  | @target dir _ _ =>
    exact .inr ⟨_, _, rfl, rfl, rfl,
      { keep _ with target := by cases dir <;> simp, heading := by cases dir <;> simp }⟩
  | updateStep _ _ _ => exact .inr ⟨_, _, rfl, rfl, rfl, { keep _ with target := by simp, drive := by simp }⟩

/-- With a fault or without, an operation writes only the fields listed for it. -/
theorem exec_writesListed (h : exec i s = .next t) :
    ∃ (b : Block s.config) (r : Response s.config), t = s.respond b r ∧ s.block.WritesListed i b := by
  obtain ⟨cause, rfl⟩ | ⟨b, r, rfl, -, -, hw⟩ := exec_faults_or_writes h
  · exact ⟨_, _, rfl, .recordFault i _ cause⟩
  · exact ⟨b, r, rfl, hw⟩

/-! ### R37: the fault record -/

/-- What `FAULT_CAUSE` holds when `cause?` is the first fault. -/
def recordedCode : Option Cause → BitVec 8
  | some cause => cause.code
  | none => 0

/-- `FAULT_CAUSE` records the first of the faults answered so far. -/
def State.RecordsFirstFault (s : State) : Prop := s.block.faultCause = recordedCode (firstCause s.responses.reverse)

/-- R180: no cause is recorded as 0, the code of "no fault". -/
theorem Cause.code_ne_zero (cause : Cause) : cause.code ≠ 0 := by
  cases cause <;> decide

theorem firstCause_reverse_cons {c : Config} (r : Response c) (rs : List (Response c)) :
    firstCause (r :: rs).reverse = (firstCause rs.reverse).or r.cause? := by
  cases h : r.cause? <;> simp [firstCause, h]

/-- Recording a cause where `first` was the first fault leaves the code of the first of both. -/
theorem recordedCode_or_some (first : Option Cause) (cause : Cause) :
    recordedCode (first.or (some cause)) = if recordedCode first = 0 then cause.code else recordedCode first := by
  cases first with
  | none => simp [recordedCode]
  | some earlier => exact (if_neg earlier.code_ne_zero).symm

theorem powerOn_recordsFirstFault (c : Config) (x : Drive) (ps : List (Presentation c)) :
    (State.powerOn c x ps).RecordsFirstFault := rfl

theorem faulting_recordsFirstFault (hs : s.RecordsFirstFault) (cause : Cause) :
    (s.faulting cause).RecordsFirstFault := by
  unfold State.RecordsFirstFault at *
  rw [State.respond_responses, firstCause_reverse_cons, State.respond_block, Block.recordFault_faultCause, hs]
  exact (recordedCode_or_some _ cause).symm

theorem exec_recordsFirstFault (hs : s.RecordsFirstFault) (h : exec i s = .next t) : t.RecordsFirstFault := by
  obtain ⟨cause, rfl⟩ | ⟨b, r, rfl, hr, hb, -⟩ := exec_faults_or_writes h
  · exact faulting_recordsFirstFault hs cause
  · unfold State.RecordsFirstFault at *
    rw [State.respond_responses, firstCause_reverse_cons, hr, Option.or_none, State.respond_block, hb, hs]

/-- A property that latching a presentation, raising a fault and every operation keep, every step keeps. -/
theorem step_keeps {P : State → Prop} (hlatch : ∀ (s : State) p rest, P s → P (s.latch p rest))
    (hfault : ∀ (s : State) cause, P s → P (s.faulting cause))
    (hexec : ∀ (i : Instr) (s t : State), P s → exec i s = .next t → P t) (s t : State) (hs : P s)
    (h : step s = .next t) : P t := by
  obtain ⟨p, rest, -, -, ⟨i, -, he⟩ | ⟨-, rfl⟩⟩ := step_next.1 h
  · exact hexec i _ t (hlatch s p rest hs) he
  · exact hfault _ _ (hlatch s p rest hs)

theorem step_recordsFirstFault (s t : State) : s.RecordsFirstFault → step s = .next t → t.RecordsFirstFault :=
  step_keeps (fun _ _ _ hs => hs) (fun _ cause hs => faulting_recordsFirstFault hs cause)
    (fun _ _ _ hs h => exec_recordsFirstFault hs h) s t

/-! ### R40: the invariants -/

theorem Cause.code_le_four (cause : Cause) : cause.code.toNat ≤ 4 := by
  cases cause <;> decide

theorem sample_le_timerMax (h : s.sampleInRange = true) : s.sample.toNat ≤ s.config.timerMax := by
  have ha : s.port.a.toNat ≤ s.config.timerMax := by simpa [State.sampleInRange] using h
  rw [State.sample, BitVec.toNat_setWidth]
  exact (Nat.mod_le _ _).trans ha

/-- R123: between samples in range the one-wrap formula does not leave the range; where `TIMER_MAX` fills the field
nothing can. -/
theorem pulseWidth_le_timerMax {c : Config} {r f : BitVec c.timerW} (hr : r.toNat ≤ c.timerMax)
    (hf : f.toNat ≤ c.timerMax) : (pulseWidth c r f).toNat ≤ c.timerMax := by
  by_cases hmax : 2 ^ c.timerW ≤ c.timerMax
  · exact (pulseWidth c r f).isLt.le.trans hmax
  have hm : (BitVec.ofNat c.timerW c.timerMax).toNat = c.timerMax :=
    Nat.mod_eq_of_lt (Nat.lt_of_not_le hmax)
  unfold pulseWidth
  split
  · next hle =>
    rw [BitVec.toNat_sub_of_le (BitVec.le_def.2 hle)]
    omega
  · next hlt =>
    have hsub : (BitVec.ofNat c.timerW c.timerMax - r).toNat = c.timerMax - r.toNat := by
      rw [BitVec.toNat_sub_of_le (BitVec.le_def.2 (hm.symm ▸ hr)), hm]
    rw [BitVec.toNat_add, hsub]
    exact (Nat.mod_le _ _).trans (by omega)

namespace Block.Inv

variable {c : Config} {b : Block c}

theorem reset (c : Config) (x : Drive) : (Block.reset c x).Inv := by
  constructor <;> simp [Block.reset]

theorem recordFault (hb : b.Inv) (cause : Cause) : (b.recordFault cause).Inv where
  armed := by simpa using hb.armed
  pendingGated := by simpa using hb.pendingGated
  movingGated := by simpa using hb.movingGated
  riseInRange := by simpa using hb.riseInRange
  fallInRange := by simpa using hb.fallInRange
  widthInRange := by simpa using hb.widthInRange
  knownCause := by
    rw [Block.recordFault_faultCause]
    split
    · exact cause.code_le_four
    · exact hb.knownCause

theorem riseTransition (hb : b.Inv) {sample : BitVec c.timerW} (h : sample.toNat ≤ c.timerMax) :
    (b.riseTransition sample).Inv :=
  { hb with armed := by simp [Block.riseTransition], riseInRange := h }

theorem fallTransition (hb : b.Inv) {sample : BitVec c.timerW} (h : sample.toNat ≤ c.timerMax) :
    (b.fallTransition sample).Inv :=
  { hb with
    armed := by simp [Block.fallTransition]
    fallInRange := h
    widthInRange := pulseWidth_le_timerMax hb.riseInRange h }

end Block.Inv

theorem powerOn_inv (c : Config) (x : Drive) (ps : List (Presentation c)) : (State.powerOn c x ps).Inv :=
  Block.Inv.reset c x

/-- The operations that set `DB_PENDING` or `ACT_STEPS` have passed the gate, none closes it, and a stored sample is in
range. -/
theorem exec_keeps_inv (hs : s.Inv) (h : exec i s = .next t) : t.Inv := by
  have hb : s.block.Inv := hs
  cases exec_effect h with
  | tickReinit _ | uninit _ _ _ _ | captureRange _ | targetTooWide _ => exact hb.recordFault _
  | tickIgnored _ | tickNow _ | unarmed _ _ | distNow | pollIdle _ | pollEarly _ _ _ | updateIdle _
  | updateEarly _ _ _ => exact hb
  | tick _ | tickReset _ => exact { hb with }
  | tickInit _ => exact { hb with pendingGated := fun _ => rfl, movingGated := fun _ => rfl }
  | btnEdge gate => exact { hb with pendingGated := fun _ => gate }
  | rise range _ _ => exact hb.riseTransition (sample_le_timerMax range)
  | fall range _ _ => exact hb.fallTransition (sample_le_timerMax range)
  | pollGlitch _ _ _ _ | pollPress _ _ _ _ => exact { hb with pendingGated := nofun }
  | target _ gate | updateStep _ gate _ => exact { hb with movingGated := fun _ => gate }

/-! ### R126: the capture sub-block's independence -/

theorem captureView_eq_iff {c : Config} {b k : Block c} : b.captureView = k.captureView ↔
    b.capPhase = k.capPhase ∧ b.capPol = k.capPol ∧ b.capRiseTs = k.capRiseTs ∧ b.capFallTs = k.capFallTs ∧
    b.capPulseWidth = k.capPulseWidth := by
  simp [Block.captureView, BitVec.toNat_inj]

theorem captureTransition_congr {c : Config} {b k : Block c} (h : b.captureView = k.captureView)
    (sample : BitVec c.timerW) :
    (b.captureTransition sample).captureView = (k.captureTransition sample).captureView := by
  obtain ⟨hphase, hpol, hrise, hfall, hwidth⟩ := captureView_eq_iff.1 h
  rw [captureView_eq_iff, Block.captureTransition, Block.captureTransition, hphase]
  cases k.capPhase with
  | awaitingRise => simp [Block.riseTransition, hfall, hwidth]
  | awaitingFall => simp [Block.fallTransition, hrise]

theorem execCapEdge_captureView {pol : Polarity} (h : execCapEdge pol s = .next t) :
    t.block.captureView =
      if s.sampleInRange = true ∧ s.block.capPol = pol then (s.block.captureTransition s.sample).captureView
      else s.block.captureView := by
  obtain ⟨hr, rfl⟩ | ⟨hr, ha, rfl⟩ | ⟨hr, ha, rfl⟩ := execCapEdge_next.1 h
  · simp [hr]
  · simp [ha]
  · simp [hr, ha]

theorem exec_captureView_of_not_capEdge (hi : i ∉ [.capEdge .rising, .capEdge .falling]) (h : exec i s = .next t) :
    t.block.captureView = s.block.captureView := by
  obtain ⟨b, r, rfl, hw⟩ := exec_writesListed h
  exact hw.captureView hi

/-- The same machine with other fields and other answers before. -/
abbrev State.withBlock (s : State) (b : Block s.config) (rs : List (Response s.config)) : State :=
  { s with block := b, responses := rs }

/-- An operation on a block with the same capture fields leaves the same capture fields. -/
theorem exec_captureView_congr {b : Block s.config} {rs : List (Response s.config)} {u : State}
    (hb : b.captureView = s.block.captureView) (hs : exec i s = .next t) (hu : exec i (s.withBlock b rs) = .next u) :
    u.block.captureView = t.block.captureView := by
  by_cases hi : i ∈ [.capEdge .rising, .capEdge .falling]
  · obtain ⟨pol, rfl⟩ : ∃ pol, i = .capEdge pol := by
      obtain rfl | rfl : i = .capEdge .rising ∨ i = .capEdge .falling := by simpa using hi
      · exact ⟨_, rfl⟩
      · exact ⟨_, rfl⟩
    have hpol : b.capPol = s.block.capPol := (captureView_eq_iff.1 hb).2.1
    rw [execCapEdge_captureView hs, execCapEdge_captureView hu, captureTransition_congr hb, hb, hpol]
    rfl
  · rw [exec_captureView_of_not_capEdge hi hs, exec_captureView_of_not_capEdge hi hu, hb]

/-- A step of one machine is a step of the other, and the capture fields stay the same. -/
theorem step_captureView_congr {b : Block s.config} (rs : List (Response s.config))
    (hb : b.captureView = s.block.captureView) (h : step s = .next t) :
    ∃ (k : Block t.config) (ts : List (Response t.config)),
      step (s.withBlock b rs) = .next (t.withBlock k ts) ∧ k.captureView = t.block.captureView := by
  obtain ⟨p, rest, hwf, hp, ⟨i, ha, he⟩ | ⟨ha, rfl⟩⟩ := step_next.1 h
  · obtain ⟨k', r', hs⟩ := exec_answers i (s.latch p rest)
    obtain ⟨k, r, hu⟩ := exec_answers i ((s.latch p rest).withBlock b rs)
    cases he.symm.trans hs
    exact ⟨k, r :: rs, step_next.2 ⟨p, rest, hwf, hp, .inl ⟨i, ha, hu⟩⟩,
      exec_captureView_congr (s := s.latch p rest) hb he hu⟩
  · exact ⟨_, _, step_next.2 ⟨p, rest, hwf, hp, .inr ⟨ha, rfl⟩⟩, by simpa using hb⟩

theorem stepN_captureView_congr {b : Block s.config} (rs : List (Response s.config)) {n : Nat}
    (hb : b.captureView = s.block.captureView) (h : stepN n s = .next t) :
    ∃ u, stepN n (s.withBlock b rs) = .next u ∧ u.block.captureView = t.block.captureView := by
  induction n generalizing s with
  | zero =>
    cases stepN_zero.1 h
    exact ⟨_, rfl, hb⟩
  | succ n ih =>
    obtain ⟨v, hv, h⟩ := stepN_succ.1 h
    obtain ⟨k, ts, hstep, hk⟩ := step_captureView_congr rs hb hv
    obtain ⟨u, hu, hview⟩ := ih ts hk h
    exact ⟨u, stepN_succ.2 ⟨_, hstep, hu⟩, hview⟩

/-! ### R39: what each agent may write -/

theorem not_mem_of_agent {l : List Instr} {agents : List Agent} (hl : ∀ j ∈ l, j.agent ∈ agents)
    (hi : i.agent ∉ agents) : i ∉ l :=
  fun hmem => hi (hl i hmem)

/-- Only `BTN_EDGE` sets `DB_PENDING`, and only `BTN_POLL` clears it. -/
theorem exec_dbPending (h : exec i s = .next t) :
    t.block.dbPending = s.block.dbPending ∨ (i = .btnEdge ∧ t.block.dbPending = true) ∨
      (i = .btnPoll ∧ t.block.dbPending = false) := by
  by_cases hi : i ∈ [.btnEdge, .btnPoll]
  · obtain rfl | rfl : i = .btnEdge ∨ i = .btnPoll := by simpa using hi
    · rcases execBtnEdge_next.1 h with ⟨-, rfl⟩ | ⟨-, rfl⟩ <;> simp
    · rcases execBtnPoll_next.1 h with
        ⟨-, rfl⟩ | ⟨-, -, rfl⟩ | ⟨-, -, -, rfl⟩ | ⟨-, -, -, -, rfl⟩ | ⟨-, -, -, -, rfl⟩ <;>
        simp
  · obtain ⟨b, r, rfl, hw⟩ := exec_writesListed h
    exact .inl (hw.dbPending hi)

/-! ### R23, R24: the tick source's writers -/

/-- The operation is a `BTN_POLL` that accepts a press (R142), in the state whose port holds its `BTN_IN`. -/
def State.pollAccepts (s : State) : Bool :=
  s.block.dbPending && s.block.tickEn && s.block.windowElapsed s.block.tickCount && s.pressed

theorem exec_tickCount (h : exec i s = .next t) :
    t.block.tickCount.toNat =
      if i = .tick ∧ s.block.tickEn = true then (s.block.tickCount.toNat + 1) % 2 ^ s.config.tickW
      else if (i = .tickInit ∧ s.block.tickEn = false) ∨ (i = .tickReset ∧ s.block.tickEn = true) ∨
          (i = .btnPoll ∧ s.pollAccepts = true) then 0
      else s.block.tickCount.toNat := by
  by_cases hi : i ∈ [.tick, .tickInit, .tickReset, .btnPoll]
  · obtain rfl | rfl | rfl | rfl : i = .tick ∨ i = .tickInit ∨ i = .tickReset ∨ i = .btnPoll := by simpa using hi
    · rcases execTick_next.1 h with ⟨g, rfl⟩ | ⟨g, rfl⟩ <;> simp [g]
    · rcases execTickInit_next.1 h with ⟨g, rfl⟩ | ⟨g, rfl⟩ <;> simp [g]
    · rcases execTickReset_next.1 h with ⟨g, rfl⟩ | ⟨g, rfl⟩ <;> simp [g]
    · rcases execBtnPoll_next.1 h with
        ⟨p, rfl⟩ | ⟨p, g, rfl⟩ | ⟨p, g, w, rfl⟩ | ⟨p, g, w, l, rfl⟩ | ⟨p, g, w, l, rfl⟩ <;>
        simp [State.pollAccepts, *]
  · obtain ⟨b, r, rfl, hw⟩ := exec_writesListed h
    simp_all [hw.tickCount hi]

theorem exec_tickEn (h : exec i s = .next t) :
    t.block.tickEn = true ↔ s.block.tickEn = true ∨ i = .tickInit := by
  by_cases hi : i = .tickInit
  · subst hi
    rcases execTickInit_next.1 h with ⟨g, rfl⟩ | ⟨g, rfl⟩ <;> simp [g]
  · obtain ⟨b, r, rfl, hw⟩ := exec_writesListed h
    simp [hw.tickEn hi, hi]

theorem acceptsPress_iff {p : Presentation s.config} {rest : List (Presentation s.config)}
    (hp : s.pending = p :: rest) :
    s.acceptsPress = true ↔ s.nextIs .btnPoll = true ∧ (s.latch p rest).pollAccepts = true := by
  simp [State.acceptsPress, State.resolvesRecord, State.pressedNext, State.pollAccepts, State.pressed, hp, and_assoc]

end

/-! ### The obligations -/

/-- Settles O11: `RecordsFirstFault` holds at block reset, where nothing is answered, and every step keeps it. -/
theorem faultCauseRecordsTheFirstFaultOfARun : Obligations.FaultCauseRecordsTheFirstFaultOfARun :=
  fun c x ps _ _ h => stepN_keeps step_recordsFirstFault (powerOn_recordsFirstFault c x ps) h

/-- Settles O35: by induction over the run, each step of the one machine is a step of the other with the same capture
fields after it. -/
theorem captureDependsOnNoOtherSubBlock : Obligations.CaptureDependsOnNoOtherSubBlock :=
  fun s _ _ _ hb h => stepN_captureView_congr s.responses hb h

/-- Settles O54: operations and faults keep the invariants, and latching writes no field of the block. -/
theorem everyStepKeepsTheInvariants : Obligations.EveryStepKeepsTheInvariants :=
  step_keeps (fun _ _ _ hs => hs) (fun _ cause hs => Block.Inv.recordFault hs cause)
    (fun _ _ _ hs h => exec_keeps_inv hs h)

/-- Settles O55: the invariants hold at block reset and every step keeps them. -/
theorem reachableStatesMeetTheInvariants : Obligations.ReachableStatesMeetTheInvariants :=
  fun c x ps _ _ h => stepN_keeps everyStepKeepsTheInvariants (powerOn_inv c x ps) h

/-- Settles O17: `WritesListed` names the table's clauses, and `FAULT_CAUSE` is kept or the operation faults. -/
theorem fieldsAreWrittenOnlyByListedOperations : Obligations.FieldsAreWrittenOnlyByListedOperations := by
  intro i s t h
  obtain ⟨cause, rfl⟩ | ⟨b, r, rfl, -, hcause, hw⟩ := exec_faults_or_writes h
  · have hw := Block.WritesListed.recordFault i s.block cause
    exact ⟨_, _, rfl, hw.tickCount, hw.tickEn, hw.capture, hw.dbPending, hw.dbPressTs, hw.target, hw.heading, hw.drive,
      .inr ⟨cause, rfl, rfl⟩⟩
  · exact ⟨b, r, rfl, hw.tickCount, hw.tickEn, hw.capture, hw.dbPending, hw.dbPressTs, hw.target, hw.heading, hw.drive,
      .inl hcause⟩

/-- Settles O18: an agent runs only its own operations, and those listed for a field belong to the field's owners. -/
theorem fieldsChangeOnlyUnderTheirOwners : Obligations.FieldsChangeOnlyUnderTheirOwners := by
  intro s t p rest hp h
  obtain ⟨p', rest', -, hp', ⟨i, -, hagent, -, he⟩ | ⟨-, -, -, rfl⟩⟩ := step_cases h
  all_goals obtain ⟨rfl, rfl⟩ := List.cons.inj (hp.symm.trans hp')
  · obtain ⟨b, r, rfl, hw⟩ := exec_writesListed he
    rw [hagent]
    refine ⟨fun ha => hw.captureView (not_mem_of_agent (agents := [.captureIRQ]) (by decide) (by simpa using ha)),
      fun ha => ⟨hw.actuatorView (not_mem_of_agent (agents := [.host]) (by decide) (by simpa using ha)),
        hw.tickEn ?_⟩,
      fun ha => congrArg _ (hw.tickCount (not_mem_of_agent (by decide) ha)),
      fun ha => congrArg _ (hw.dbPressTs ?_), fun hs ht => ?_, fun hs ht => ?_⟩
    · rintro rfl
      exact ha rfl
    · rintro rfl
      exact ha rfl
    · obtain hkept | ⟨rfl, -⟩ | ⟨-, hcleared⟩ := exec_dbPending he
      · exact absurd (hs.symm.trans (hkept.symm.trans ht)) nofun
      · rfl
      · exact absurd (ht.symm.trans hcleared) nofun
    · obtain hkept | ⟨-, hset⟩ | ⟨rfl, -⟩ := exec_dbPending he
      · exact absurd (hs.symm.trans (hkept.symm.trans ht)) nofun
      · exact absurd (ht.symm.trans hset) nofun
      · rfl
  · simp +contextual

/-- Settles O27: `exec_tickCount`, read from the next presentation; an illegal Host word writes no count. -/
theorem tickCountHasExactlyFourWriters : Obligations.TickCountHasExactlyFourWriters := by
  intro s t h
  obtain ⟨p, rest, -, hp, ⟨i, hnext, -, -, he⟩ | ⟨hnext, -, -, rfl⟩⟩ := step_cases h
  · simpa only [acceptsPress_iff hp, hnext, beq_iff_eq] using exec_tickCount he
  · simp [acceptsPress_iff hp, hnext]

/-- Settles O28: only `TICK_INIT` writes `TICK_EN`, and it writes 1; of the writers of `TICK_COUNT` (O27), all others
need the gate open. -/
theorem onlyTickInitOpensTheGate : Obligations.OnlyTickInitOpensTheGate := by
  refine ⟨fun _ _ _ => rfl, fun s t h => ⟨?_, fun hgate hinit => ?_⟩⟩
  · obtain ⟨p, rest, -, -, ⟨i, hnext, -, -, he⟩ | ⟨hnext, -, -, rfl⟩⟩ := step_cases h
    · simpa only [hnext, beq_iff_eq] using exec_tickEn he
    · simp [hnext]
  · have haccepts : s.acceptsPress = false := by simp [State.acceptsPress, State.resolvesRecord, hgate]
    simpa [hgate, hinit, haccepts] using tickCountHasExactlyFourWriters s t h

end Sys2Proof.Machine

/-! PROOFS. Runs over the whole pending list (20_memory.md R51, R52): what the agents may present is taken, one
presentation a step, until nothing is pending. -/

namespace Sys2Proof.Machine

/-- Admitted presentations are all taken: a run with a step for each empties the pending list and answers each. By
induction on how many are pending; a step keeps the configuration and the presentations after the first. -/
theorem stepN_answers_pending {s : State} {n : Nat} (hwf : s.config.wf = true) (hadm : ∀ p ∈ s.pending, p.wf = true)
    (hn : s.pending.length = n) :
    ∃ t, stepN n s = .next t ∧ t.pending = [] ∧ t.responses.length = s.responses.length + n := by
  induction n generalizing s with
  | zero => exact ⟨s, rfl, List.eq_nil_of_length_eq_zero hn, rfl⟩
  | succ n ih =>
    obtain ⟨p, rest, hp⟩ := List.exists_cons_of_length_eq_add_one hn
    rw [hp] at hadm hn
    obtain ⟨hhead, hrest⟩ := List.forall_mem_cons.1 hadm
    obtain ⟨b, r, hstep⟩ := step_answers hwf hp (admission_ne_noStep hhead)
    obtain ⟨t, hrun, hnil, hlen⟩ := ih (s := (s.latch p rest).respond b r) hwf hrest (Nat.succ.inj hn)
    exact ⟨t, stepN_succ.2 ⟨_, hstep, hrun⟩, hnil, hlen.trans (Nat.succ_add_eq_add_succ _ _)⟩

/-! ### The obligations -/

/-- Settles O16: an order is a pending list of the same admitted presentations, and a run takes all of any such list. -/
theorem everyInterleavingRuns : Obligations.EveryInterleavingRuns := by
  intro s order hwf hadm hperm
  rw [← hperm.length_eq]
  exact stepN_answers_pending (s := { s with pending := order }) hwf (fun p hp => hadm p (hperm.subset hp)) rfl

end Sys2Proof.Machine

/-! PROOFS. The operation encoding (30_encoding.md): the word's fields and the decoder's inverse (R70 to R73), which pairs
are steps (R74), the Host's case table and its illegal words (R75, R76), the operands an operation reads (R77), and the
written forms (R79, R80). -/

namespace Sys2Proof

/-! ### The word and its fields (R70) -/

/-- A word is the concatenation of its three fields. -/
theorem fields_append (w : OpWord) : (rsvField w ++ selField w) ++ opField w = w := by
  have upper : rsvField w ++ selField w = w.extractLsb' 4 4 := BitVec.extractLsb'_append_extractLsb'_eq_extractLsb' rfl
  have whole : w.extractLsb' 4 4 ++ opField w = w.extractLsb' 0 8 :=
    BitVec.extractLsb'_append_extractLsb'_eq_extractLsb' rfl
  rw [upper, whole, BitVec.extractLsb'_eq_self]

section
variable (r : BitVec 3) (sel : Level) (op : BitVec 4)

@[simp] theorem rsvField_append : rsvField ((r ++ sel) ++ op) = r := by
  rw [rsvField, BitVec.extractLsb'_append_eq_of_le (by decide)]
  exact BitVec.extractLsb'_append_eq_left

@[simp] theorem selField_append : selField ((r ++ sel) ++ op) = sel := by
  rw [selField, BitVec.extractLsb'_append_eq_of_le (by decide)]
  exact BitVec.extractLsb'_append_eq_right

@[simp] theorem opField_append : opField ((r ++ sel) ++ op) = op :=
  BitVec.extractLsb'_append_eq_right

end

/-- A word is an operation's when its three fields are the operation's. -/
theorem encode_eq_iff {i : Instr} {w : OpWord} :
    encode i = w ↔ rsvField w = 0 ∧ opField w = i.code ∧ selField w = i.sel := by
  constructor
  · rintro rfl
    simp [encode]
  · rintro ⟨hrsv, hop, hsel⟩
    rw [← fields_append w, hrsv, hop, hsel]
    rfl

/-! ### The selector bit (R73) -/

theorem polarityOf_bit (pol : Polarity) : polarityOf pol.bit = pol := by cases pol <;> rfl

theorem directionOf_bit (dir : Direction) : directionOf dir.bit = dir := by cases dir <;> rfl

theorem Polarity.bit_polarityOf (sel : Level) : (polarityOf sel).bit = sel := by
  rcases BitVec.eq_zero_or_eq_one sel with rfl | rfl <;> rfl

theorem Direction.bit_directionOf (sel : Level) : (directionOf sel).bit = sel := by
  rcases BitVec.eq_zero_or_eq_one sel with rfl | rfl <;> rfl

theorem Polarity.eq_iff_bit (pol : Polarity) : (pol = .rising ↔ pol.bit = 0) ∧ (pol = .falling ↔ pol.bit = 1) := by
  cases pol <;> simp [Polarity.bit]

theorem Direction.eq_iff_bit (dir : Direction) : (dir = .cw ↔ dir.bit = 0) ∧ (dir = .ccw ↔ dir.bit = 1) := by
  cases dir <;> simp [Direction.bit]

/-! ### The decoder (R72) -/

theorem opcodeMap_code (i : Instr) : opcodeMap i.code.toNat i.sel = some i := by
  cases i with
  | capEdge pol => exact congrArg (some ∘ Instr.capEdge) (polarityOf_bit pol)
  | actSet dir => exact congrArg (some ∘ Instr.actSet) (directionOf_bit dir)
  | tick | btnEdge | tickInit | tickNow | tickReset | distNow | btnPoll | actUpdate => rfl

/-- The opcode map gives an operation only for its own code and selector. -/
theorem opcodeMap_eq_some {op : Nat} {sel : Level} {i : Instr} (h : opcodeMap op sel = some i) :
    op = i.code.toNat ∧ sel = i.sel := by
  unfold opcodeMap at h
  split at h
  case h_2 => cases h; exact ⟨rfl, (Polarity.bit_polarityOf sel).symm⟩
  case h_9 => cases h; exact ⟨rfl, (Direction.bit_directionOf sel).symm⟩
  case h_11 => cases h
  all_goals
    obtain ⟨hsel, hi⟩ := Option.ite_none_right_eq_some.1 h
    cases hi
    exact ⟨rfl, hsel⟩

theorem decode_eq_some_iff {w : OpWord} {i : Instr} : decode w = some i ↔ encode i = w := by
  rw [decode, Option.ite_none_right_eq_some, encode_eq_iff]
  refine and_congr_right fun _ => ⟨fun h => ?_, fun ⟨hop, hsel⟩ => ?_⟩
  · obtain ⟨hop, hsel⟩ := opcodeMap_eq_some h
    exact ⟨BitVec.eq_of_toNat_eq hop, hsel⟩
  · rw [hop, hsel, opcodeMap_code]

theorem decode_encode (i : Instr) : decode (encode i) = some i := decode_eq_some_iff.2 rfl

theorem selField_of_decode {w : OpWord} {i : Instr} (h : decode w = some i) : selField w = i.sel := by
  obtain ⟨-, -, hsel⟩ := encode_eq_iff.1 (decode_eq_some_iff.1 h)
  exact hsel

/-! ### The opcode table (R72) -/

/-- A row with the mask 0xFF holds one word. -/
theorem and_fullMask_eq {w v : OpWord} : w &&& 0xFF = v ↔ w = v := by
  rw [show w &&& 0xFF = w from BitVec.and_allOnes]

/-- A row with the mask 0xEF holds two words, which differ in the selector bit. -/
theorem eq_or_of_and_selMask {w v : OpWord} (h : w &&& 0xEF = v) : w = v ∨ w = v ||| 0x10 := by
  have byBit : w = w &&& 0xEF ||| w &&& 0x10 := by
    rw [← BitVec.and_or_distrib_left]
    exact BitVec.and_allOnes.symm
  have bit : w &&& 0x10 = if w.getLsbD 4 then 0x10 else 0 := BitVec.and_twoPow w 4
  rw [h, bit] at byBit
  split_ifs at byBit
  · exact .inr byBit
  · exact .inl (byBit.trans BitVec.or_zero)

/-- A row fixes all eight bits, or all but the selector bit; its words decode. -/
theorem opcodeTable_masks : ∀ r ∈ opcodeTable,
    (r.mask = 0xFF ∧ decode r.value ≠ none) ∨
    (r.mask = 0xEF ∧ decode r.value ≠ none ∧ decode (r.value ||| 0x10) ≠ none) := by
  decide

/-- Every word a row of the opcode table holds is an operation's. -/
theorem decode_ne_none_of_row {r : OpcodeRow} {w : OpWord} (hr : r ∈ opcodeTable) (h : r.holds w = true) :
    decode w ≠ none := by
  rw [OpcodeRow.holds, beq_iff_eq] at h
  obtain ⟨hmask, hvalue⟩ | ⟨hmask, hvalue, hother⟩ := opcodeTable_masks r hr
  · rw [hmask, and_fullMask_eq] at h
    rwa [h]
  · obtain rfl | rfl := eq_or_of_and_selMask (hmask ▸ h)
    · exact hvalue
    · exact hother

/-- An operation's word is held by the operation's row and no other. -/
theorem opcodeTable_rows_encode (i : Instr) :
    (opcodeTable.filter (·.holds (encode i))).map (·.mnemonic) = [i.mnemonic] := by
  cases i with
  | capEdge pol => cases pol <;> decide
  | actSet dir => cases dir <;> decide
  | tick | btnEdge | tickInit | tickNow | tickReset | distNow | btnPoll | actUpdate => decide

/-! ### Admission (R74, R75, R76) -/

theorem Instr.agent_mayPresent_encode (i : Instr) : i.agent.mayPresent (encode i) = true := by
  cases i with
  | capEdge pol => cases pol <;> rfl
  | tick | btnEdge | tickInit | tickNow | tickReset | distNow | btnPoll | actSet _ | actUpdate => rfl

/-- R74's list is exactly the pairs that are steps. -/
theorem admission_ne_noStep_iff {agent : Agent} {w : OpWord} :
    admission agent w ≠ .noStep ↔ agent.mayPresent w = true := by
  refine ⟨fun h => ?_, admission_ne_noStep⟩
  cases ha : admission agent w with
  | operation i =>
    obtain ⟨hd, rfl⟩ := Machine.admission_operation ha
    rw [← decode_eq_some_iff.1 hd]
    exact i.agent_mayPresent_encode
  | illegal =>
    rw [Machine.admission_illegal ha]
    rfl
  | noStep => exact absurd ha h

/-- R75's case table for `RSV = 0`: what the Host runs for the code `op` and the selector `sel`. -/
def hostCase (op : Nat) (sel : Level) : Admission :=
  match op with
  | 0x8 => if sel = 0 then .operation .tickInit else .illegal
  | 0x9 => if sel = 0 then .operation .tickNow else .illegal
  | 0xA => if sel = 0 then .operation .tickReset else .illegal
  | 0xB => if sel = 0 then .operation .distNow else .illegal
  | 0xC => if sel = 0 then .operation .btnPoll else .illegal
  | 0xD => .operation (.actSet (if sel = 0 then .cw else .ccw))
  | 0xE => if sel = 0 then .operation .actUpdate else .illegal
  | _ => .illegal

theorem admission_host_of_rsv_ne {w : OpWord} (h : rsvField w ≠ 0) : admission .host w = .illegal := by
  rw [admission, decode, if_neg h]
  rfl

/-- With `RSV = 0` the Host's admission is the case table, at each of the sixteen codes and for each selector. -/
theorem admission_host_of_rsv_eq {w : OpWord} (h : rsvField w = 0) :
    admission .host w = hostCase (opField w).toNat (selField w) := by
  rw [admission, decode, if_pos h]
  have hop : (opField w).toNat < 16 := (opField w).isLt
  generalize (opField w).toNat = op at hop
  obtain hsel | hsel := BitVec.eq_zero_or_eq_one (selField w) <;> rw [hsel] <;> interval_cases op <;> rfl

theorem admission_host (w : OpWord) :
    admission .host w = if rsvField w ≠ 0 then .illegal else hostCase (opField w).toNat (selField w) := by
  split
  case isTrue h => exact admission_host_of_rsv_ne h
  case isFalse h => exact admission_host_of_rsv_eq (not_not.1 h)

/-- R76: the table's rows are illegal with the selector bit 1, except that of `act.set`; every code without a row is
reserved or an event's. -/
theorem hostCase_eq_illegal_iff {op : Nat} (hop : op < 16) (sel : Level) :
    hostCase op sel = .illegal ↔
      op ∈ [0x3, 0x4, 0x5, 0x6, 0x7, 0xF] ∨ op ∈ [0x0, 0x1, 0x2] ∨ (sel = 1 ∧ op ∉ [0x1, 0xD]) := by
  unfold hostCase
  split
  case h_8 =>
    have listed : op ∈ [0x3, 0x4, 0x5, 0x6, 0x7, 0xF] ∨ op ∈ [0x0, 0x1, 0x2] := by grind
    tauto
  all_goals obtain rfl | rfl := BitVec.eq_zero_or_eq_one sel <;> decide

theorem admission_host_eq_illegal_iff (w : OpWord) : admission .host w = .illegal ↔
    rsvField w ≠ 0 ∨ (opField w).toNat ∈ [0x3, 0x4, 0x5, 0x6, 0x7, 0xF] ∨ (opField w).toNat ∈ [0x0, 0x1, 0x2] ∨
      (selField w = 1 ∧ (opField w).toNat ∉ [0x1, 0xD]) := by
  by_cases h : rsvField w = 0
  · rw [admission_host_of_rsv_eq h, hostCase_eq_illegal_iff (opField w).isLt]
    simp [h]
  · exact iff_of_true (admission_host_of_rsv_ne h) (.inl h)

end Sys2Proof

namespace Sys2Proof.Machine

section
variable {s : State} {p : Presentation s.config} {rest : List (Presentation s.config)}
  (hwf : s.config.wf = true) (hp : s.pending = p :: rest)
include hwf hp

theorem step_of_noStep (ha : admission p.agent p.word = .noStep) : step s = .refused (.noStep p.agent p.word) := by
  simp [step, fetch, hwf, hp, ha]

end

/-! ### The operands an operation reads (R77) -/

/-- An operation answers the same block and response under any port that agrees on the operands it reads. -/
theorem exec_answers_port (i : Instr) (s : State) (q : Port s.config)
    (ha : i ∈ [.capEdge .rising, .capEdge .falling, .actSet .cw, .actSet .ccw] → q.a = s.port.a)
    (hb : i ∈ [.actSet .cw, .actSet .ccw] → q.b = s.port.b) (hv : i = .btnPoll → q.btnIn = s.port.btnIn) :
    ∃ (b : Block s.config) (r : Response s.config), exec i s = .next (s.respond b r) ∧
      exec i { s with port := q } = .next (State.respond { s with port := q } b r) := by
  cases i with
  | tick | btnEdge | tickInit | tickNow | tickReset | distNow | actUpdate =>
    simp only [exec, execTick, execBtnEdge, execTickInit, execTickNow, execTickReset, execDistNow, execActUpdate,
      withTickCount]
    (repeat' split) <;> exact ⟨_, _, rfl, rfl⟩
  | capEdge pol =>
    obtain ⟨_, b, v⟩ := q
    obtain rfl := ha (by cases pol <;> simp)
    have range : State.sampleInRange { s with port := ⟨s.port.a, b, v⟩ } = s.sampleInRange := rfl
    simp only [exec, execCapEdge, range]
    cases s.sampleInRange <;> cases s.block.armedFor pol <;> exact ⟨_, _, rfl, rfl⟩
  | btnPoll =>
    obtain ⟨a, b, _⟩ := q
    obtain rfl := hv rfl
    have level : State.pressed { s with port := ⟨a, b, s.port.btnIn⟩ } = s.pressed := rfl
    simp only [exec, execBtnPoll, withTickCount, level]
    (repeat' split) <;> exact ⟨_, _, rfl, rfl⟩
  | actSet dir =>
    obtain ⟨_, _, v⟩ := q
    obtain rfl := ha (by cases dir <;> simp)
    obtain rfl := hb (by cases dir <;> simp)
    have fits : State.targetFits { s with port := ⟨s.port.a, s.port.b, v⟩ } = s.targetFits := rfl
    simp only [exec, execActSet, withTickCount, fits]
    (repeat' split) <;> exact ⟨_, _, rfl, rfl⟩

/-! ### Written forms (R79, R80) -/

theorem onBus_zero (c : Config) : onBus c 0 = some 0 := if_pos (Nat.two_pow_pos _)

/-! ### The obligations -/

/-- Settles O3: a word is the concatenation of its fields, and the opcode map is the inverse of the operation's code and
selector; an operation's own word is admitted on its own agent's port. -/
theorem presentedOperationsRoundTrip : Obligations.PresentedOperationsRoundTrip :=
  ⟨fun _ _ => decode_eq_some_iff, fun _ i _ _ _ _ hwf hp =>
    fetch_operation.2 ⟨_, _, hwf, hp, admission_of_decode (decode_encode i) rfl, rfl⟩⟩

/-- Settles O5: a pair is a step exactly when R74 lists it, fetching refuses any other, and every Host word is listed. -/
theorem agentsPresentOnlyTheirOwnWords : Obligations.AgentsPresentOnlyTheirOwnWords := by
  refine ⟨fun w => ?_, fun s p rest hwf hp => ⟨fun hmay => step_of_noStep hwf hp ?_, fun hhost => ?_⟩⟩
  · simp [-ne_eq, admission_ne_noStep_iff, Agent.mayPresent]
  · exact not_not.1 (mt admission_ne_noStep_iff.1 (by simp [hmay]))
  · obtain ⟨b, r, hstep⟩ := step_answers hwf hp (admission_ne_noStep (by rw [hhost]; rfl))
    exact ⟨_, hstep⟩

/-- Settles O7: the four lists are the illegal cases of the Host's case table (O6), and recording the fault writes only
`FAULT_CAUSE`. -/
theorem illegalHostWordsFault : Obligations.IllegalHostWordsFault := by
  refine ⟨admission_host_eq_illegal_iff, fun s p rest hwf hp hhost hillegal => ?_⟩
  refine ⟨s.block.recordFault .illegalOp, step_of_illegal hwf hp (hhost ▸ hillegal), ?_,
    Block.recordFault_faultCause _ _⟩
  rw [Block.recordFault_faultCause]
  exact Block.recordFault_eq _ _

/-- Settles O19: the block and the response are read off the same branch of the operation's meaning. -/
theorem unusedOperandsAreIgnored : Obligations.UnusedOperandsAreIgnored := by
  intro i s t q h ha hb hv
  obtain ⟨b, r, hs, hq⟩ := exec_answers_port i s q ha hb hv
  cases h.symm.trans hs
  exact ⟨b, r, rfl, hq⟩

/-- Settles O1: each word written is the encoding of the operation beside it. -/
theorem specWordsDecode : Obligations.SpecWordsDecode :=
  ⟨decode_encode .tick, decode_encode (.capEdge .rising), decode_encode (.capEdge .falling), decode_encode .btnEdge,
    decode_encode .tickInit, decode_encode .tickNow, decode_encode .tickReset, decode_encode .distNow,
    decode_encode .btnPoll, decode_encode (.actSet .cw), decode_encode (.actSet .ccw), decode_encode .actUpdate⟩

/-- Settles O2: a word that decodes is an encoding, which its own row alone holds; a word that does not is in no row. -/
theorem decoderFollowsTheOpcodeTable : Obligations.DecoderFollowsTheOpcodeTable := by
  intro w
  cases hd : decode w with
  | some i =>
    rw [← decode_eq_some_iff.1 hd]
    exact opcodeTable_rows_encode i
  | none =>
    have noRow : opcodeTable.filter (·.holds w) = [] :=
      List.filter_eq_nil_iff.2 fun r hr hholds => decode_ne_none_of_row hr hholds hd
    rw [noRow]
    rfl

/-- Settles O4: the word's selector field is the selector bit of the operation it decodes to. -/
theorem selectorBitIsDecoded : Obligations.SelectorBitIsDecoded := by
  intro w
  cases hd : decode w with
  | none => trivial
  | some i =>
    have hsel : w.extractLsb' 4 1 = i.sel := selField_of_decode hd
    rw [hsel]
    cases i with
    | capEdge pol => exact pol.eq_iff_bit
    | actSet dir => exact dir.eq_iff_bit
    | tick | btnEdge | tickInit | tickNow | tickReset | distNow | btnPoll | actUpdate => rfl

/-- Settles O6: `hostCase` is the rule's table, and a presentation found ILLEGAL only raises the fault. -/
theorem hostDecodingFollowsTheCaseTable : Obligations.HostDecodingFollowsTheCaseTable :=
  ⟨admission_host, fun _ _ _ hwf hp hillegal => step_of_illegal hwf hp hillegal⟩

/-- Settles O57: the numbers 0 fit every operand bus, and each line's presentations precede those of the rest. -/
theorem scriptLinesExpand : Obligations.ScriptLinesExpand := by
  refine ⟨by decide, by decide, fun c level rest ps h => ⟨?_, fun n => ?_, fun v => h, fun w => ?_⟩⟩
  · simp only [assemble, onBus_zero, h, Option.bind_some, Option.map_some]
    rfl
  · simp only [assemble, h, Option.map_some]
    rfl
  · simp only [assemble, h, Option.map_some]

/-- Settles O58: each of the twelve lines is read and its operation encoded. -/
theorem writtenFormsNameTheirWords : Obligations.WrittenFormsNameTheirWords := by
  unfold Obligations.WrittenFormsNameTheirWords
  decide

end Sys2Proof.Machine

/-! PROOFS. The monotonic tick source (40_tick.md): what its four operations do with the gate open and closed (R100 to
R104, R106, R107), and how the count moves along a run (R105). -/

namespace Sys2Proof

/-- R72, R74: an operation is admitted on its own agent's port, for its own word, and nowhere else. -/
theorem admission_eq_operation_iff {agent : Agent} {w : OpWord} {i : Instr} :
    admission agent w = .operation i ↔ agent = i.agent ∧ w = encode i := by
  constructor
  · intro h
    obtain ⟨hd, ha⟩ := Machine.admission_operation h
    exact ⟨ha, (decode_eq_some_iff.1 hd).symm⟩
  · rintro ⟨rfl, rfl⟩
    exact admission_of_decode (decode_encode i) rfl

/-- R5: the operand buses are as wide as the tick counter. -/
theorem Config.tickW_le_opndW (c : Config) : c.tickW ≤ c.opndW :=
  (Nat.le_max_left _ _).trans (Nat.le_max_left _ _)

/-- R53, R60: the response bus holds the whole count. -/
theorem toNat_setWidth_opndW {c : Config} (n : BitVec c.tickW) : (n.setWidth c.opndW).toNat = n.toNat :=
  BitVec.toNat_setWidth_of_le c.tickW_le_opndW

end Sys2Proof

namespace Sys2Proof.Machine

theorem Block.idle_iff {c : Config} {b : Block c} : b.idle = true ↔ b.actSteps = 0 := beq_iff_eq

theorem Block.idle_eq_false_iff {c : Config} {b : Block c} : b.idle = false ↔ b.actSteps ≠ 0 := beq_eq_false_iff_ne

section
variable {s t : State} {i : Instr}

/-! ### The open gate (R107) -/

/-- The faults there are once the gate is open, with the operations that raise them: those of the operand's range, and
the second `TICK_INIT`, which always faults. -/
theorem exec_lastFault_of_open (hgate : s.block.tickEn = true) (h : exec i s = .next t) :
    (i = .tickInit ∧ t.lastFault = some .tickReinit) ∨
    ((∃ pol, i = .capEdge pol) ∧ t.lastFault = some .captureRange) ∨
    ((∃ dir, i = .actSet dir) ∧ t.lastFault = some .illegalOp) ∨
    (i ≠ .tickInit ∧ t.lastFault = none) := by
  cases exec_effect h with
  | tickReinit _ => exact .inl ⟨rfl, rfl⟩
  | captureRange _ => exact .inr (.inl ⟨⟨_, rfl⟩, rfl⟩)
  | targetTooWide _ => exact .inr (.inr (.inl ⟨⟨_, rfl⟩, rfl⟩))
  | tickIgnored gate | tickInit gate | uninit _ gate _ _ => exact absurd (hgate.symm.trans gate) nofun
  | tick _ | tickNow _ | tickReset _ | btnEdge _ | unarmed _ _ | rise _ _ _ | fall _ _ _ | distNow | pollIdle _
  | pollEarly _ _ _ | pollGlitch _ _ _ _ | pollPress _ _ _ _ | target _ _ | updateIdle _ | updateEarly _ _ _
  | updateStep _ _ _ => exact .inr (.inr (.inr ⟨nofun, rfl⟩))

/-! ### The count along a run (R105) -/

/-- A step that is about to run `i` runs it on the latched state. -/
theorem exec_of_nextIs (hnext : s.nextIs i = true) (h : step s = .next t) :
    ∃ p rest, s.pending = p :: rest ∧ exec i (s.latch p rest) = .next t := by
  obtain ⟨p, rest, -, hp, ⟨j, hj, -, -, he⟩ | ⟨hj, -⟩⟩ := step_cases h
  · obtain rfl : j = i := by simpa [hj] using hnext
    exact ⟨p, rest, hp, he⟩
  · exact absurd ((hj i).symm.trans hnext) nofun

theorem step_config (h : step s = .next t) : t.config = s.config := by
  obtain ⟨p, rest, b, r, -, rfl⟩ := step_next_respond h
  rfl

/-- A `TICK_NOW` that answers a value has passed the gate; the value is the count. -/
theorem tickNow_value {v : Nat} (hnext : s.nextIs .tickNow = true) (h : step s = .next t) (hv : t.lastValue = some v) :
    s.block.tickEn = true ∧ v = s.block.tickCount.toNat := by
  obtain ⟨p, rest, -, he⟩ := exec_of_nextIs hnext h
  obtain ⟨hgate, rfl⟩ | ⟨-, rfl⟩ := execTickNow_next.1 he
  · exact ⟨hgate, (Option.some.inj hv).symm.trans (toNat_setWidth_opndW _)⟩
  · cases hv

/-- `TICK_NOW` is none of the operations that reset the count, and it is no `TICK`. -/
theorem nextIs_of_tickNow (hnext : s.nextIs .tickNow = true) (h : step s = .next t) :
    s.resetsCount = false ∧ s.nextIs .tick = false := by
  obtain ⟨p, rest, -, -, ⟨j, hj, -⟩ | ⟨hj, -⟩⟩ := step_cases h
  · obtain rfl : j = .tickNow := by simpa [hj] using hnext
    simp [State.resetsCount, State.acceptsPress, State.resolvesRecord, hj]
  · exact absurd ((hj _).symm.trans hnext) nofun

/-- With the gate open, a step that does not reset the count adds 1 to it for a `TICK` and nothing otherwise. -/
theorem step_tickCount_of_not_resets (hgate : s.block.tickEn = true) (hreset : s.resetsCount = false)
    (h : step s = .next t) :
    t.block.tickCount.toNat =
      (s.block.tickCount.toNat + if s.nextIs .tick then 1 else 0) % 2 ^ s.config.tickW := by
  have hcount := tickCountHasExactlyFourWriters s t h
  obtain ⟨⟨-, htickReset⟩, haccepts⟩ : (s.nextIs .tickInit = false ∧ s.nextIs .tickReset = false) ∧
      s.acceptsPress = false := by simpa [State.resetsCount] using hreset
  cases htick : s.nextIs .tick with
  | true => simpa [htick, hgate] using hcount
  | false => simpa [htick, hgate, htickReset, haccepts, Nat.mod_eq_of_lt s.block.tickCount.isLt] using hcount

/-- With the gate open, a run in which nothing resets the count moves it by the run's `TICK` events, modulo
2^`TICK_W`. By induction over the run; the gate stays open. -/
theorem stepN_tickCount {n : Nat} (hgate : s.block.tickEn = true) (hreset : countAlong State.resetsCount n s = 0)
    (h : stepN n s = .next t) :
    t.block.tickCount.toNat =
      (s.block.tickCount.toNat + countAlong (State.nextIs .tick) n s) % 2 ^ s.config.tickW := by
  induction n generalizing s with
  | zero =>
    cases stepN_zero.1 h
    exact (Nat.mod_eq_of_lt t.block.tickCount.isLt).symm
  | succ n ih =>
    obtain ⟨u, hu, h⟩ := stepN_succ.1 h
    rw [countAlong_succ hu] at hreset
    obtain ⟨hnow, hlater⟩ := Nat.add_eq_zero_iff.1 hreset
    have hgate' : u.block.tickEn = true := ((onlyTickInitOpensTheGate.2 s u hu).1).2 (.inl hgate)
    rw [ih hgate' hlater h, step_tickCount_of_not_resets hgate (by simpa using hnow) hu, step_config hu,
      Nat.mod_add_mod, countAlong_succ hu, Nat.add_assoc]

end

/-! ### The obligations -/

/-- Settles O25: the first `TICK_NOW` neither ticks nor resets, so the run from it to the second one moves the count by
the `TICK` events between them (`stepN_tickCount`), and each answers the count it finds. -/
theorem countingLaw : Obligations.CountingLaw := by
  intro s t u v n first second hs hst hfirst hrun hreset hu huv hsecond
  obtain ⟨hgate, rfl⟩ := tickNow_value hs hst hfirst
  obtain ⟨-, rfl⟩ := tickNow_value hu huv hsecond
  obtain ⟨hkeeps, hnoTick⟩ := nextIs_of_tickNow hs hst
  have hmoved := stepN_tickCount (n := n + 1) hgate (by simp [countAlong_succ hst, hkeeps, hreset])
    (stepN_succ.2 ⟨t, hst, hrun⟩)
  rw [countAlong_succ hst, hnoTick, if_neg Bool.false_ne_true, Nat.zero_add] at hmoved
  have hlt := s.block.tickCount.isLt
  refine ⟨hmoved, fun hwrap => ?_, fun hzero => ?_⟩
  · rw [hmoved, Nat.mod_eq_of_lt (by omega)]
  · rw [hmoved, hzero, Nat.add_zero, Nat.mod_eq_of_lt hlt]

/-- Settles O21: reading the counter is through the gate, which faults before anything is written; `TICK`, `TICK_INIT`
and the paths that read no count answer no fault. -/
theorem closedGateFaultsCounterOperations : Obligations.ClosedGateFaultsCounterOperations := fun _ hgate =>
  have closed := Bool.eq_false_iff.1 hgate
  ⟨execTickNow_next.2 (.inr ⟨hgate, rfl⟩), execTickReset_next.2 (.inr ⟨hgate, rfl⟩),
    execBtnEdge_next.2 (.inr ⟨hgate, rfl⟩),
    fun hpending => execBtnPoll_next.2 (.inr (.inl ⟨hpending, hgate, rfl⟩)),
    fun _ hfits => execActSet_next.2 (.inr (.inl ⟨hfits, hgate, rfl⟩)),
    fun hmoving => execActUpdate_next.2 (.inr (.inl ⟨Block.idle_eq_false_iff.2 hmoving, hgate, rfl⟩)),
    ⟨_, execTick_next.2 (.inr ⟨hgate, rfl⟩), rfl⟩, ⟨_, execTickInit_next.2 (.inr ⟨hgate, rfl⟩), rfl⟩,
    fun hidle => execBtnPoll_next.2 (.inl ⟨hidle, rfl⟩),
    fun hidle => execActUpdate_next.2 (.inl ⟨Block.idle_iff.2 hidle, rfl⟩),
    fun hinv => ⟨Bool.eq_false_iff.2 (mt hinv.pendingGated closed), not_not.1 (mt hinv.movingGated closed)⟩⟩

/-- Settles O26: nothing closes the gate (O28), and `exec_lastFault_of_open` lists the faults there are behind it; an
illegal Host word runs no operation and raises `ILLEGAL_OP`. -/
theorem tickSourceCannotFailOnceInitialised : Obligations.TickSourceCannotFailOnceInitialised := by
  intro s t h hgate
  refine ⟨((onlyTickInitOpensTheGate.2 s t h).1).2 (.inl hgate), ?_⟩
  obtain ⟨p, rest, -, -, ⟨i, hnext, -, -, he⟩ | ⟨hnext, -, -, rfl⟩⟩ := step_cases h
  · simp only [hnext, beq_iff_eq]
    obtain ⟨rfl, hf⟩ | ⟨⟨pol, rfl⟩, hf⟩ | ⟨⟨dir, rfl⟩, hf⟩ | ⟨hi, hf⟩ :=
      exec_lastFault_of_open (s := s.latch p rest) hgate he
    · simp [hf]
    · simp [hf]
    · simp [hf]
    · simp [hf, hi]
  · simp [hnext]

/-- Settles O20: the count's addition is modulo 2^`TICK_W`, and behind the closed gate the block is answered as it was. -/
theorem tickCountsOncePerEventWhileGateOpen : Obligations.TickCountsOncePerEventWhileGateOpen := by
  refine ⟨fun _ _ => admission_eq_operation_iff, fun s => ⟨fun hgate => execTick_next.2 (.inr ⟨hgate, rfl⟩),
    fun hgate => ⟨s.block.tickCount + 1, execTick_next.2 (.inl ⟨hgate, rfl⟩), ?_, fun hmax => ?_⟩⟩⟩
  · simp [BitVec.toNat_add]
  · apply BitVec.eq_of_toNat_eq
    have hpos := Nat.two_pow_pos s.config.tickW
    simp [BitVec.toNat_add, hmax, Nat.sub_add_cancel hpos]

/-- Settles O22: the two cases of `TICK_INIT`. -/
theorem tickInitOpensTheGateOnce : Obligations.TickInitOpensTheGateOnce :=
  ⟨fun _ _ => admission_eq_operation_iff, fun _ => ⟨fun hgate => execTickInit_next.2 (.inr ⟨hgate, rfl⟩),
    fun hgate => execTickInit_next.2 (.inl ⟨hgate, rfl⟩)⟩⟩

/-- Settles O23: the response bus holds the whole count. -/
theorem tickNowAnswersTheWholeCount : Obligations.TickNowAnswersTheWholeCount :=
  ⟨fun _ _ => admission_eq_operation_iff, fun _ =>
    ⟨fun hgate => ⟨_, execTickNow_next.2 (.inl ⟨hgate, rfl⟩), toNat_setWidth_opndW _⟩,
      fun hgate => execTickNow_next.2 (.inr ⟨hgate, rfl⟩)⟩⟩

/-- Settles O24: behind the gate only `TICK_COUNT` is written. -/
theorem tickResetClearsOnlyTheCount : Obligations.TickResetClearsOnlyTheCount :=
  ⟨fun _ _ => admission_eq_operation_iff, fun _ => ⟨fun hgate => execTickReset_next.2 (.inl ⟨hgate, rfl⟩),
    fun hgate => execTickReset_next.2 (.inr ⟨hgate, rfl⟩)⟩⟩

end Sys2Proof.Machine

/-! PROOFS. The capture edge machine (41_capture.md): the edge's checks and its two transitions (R120 to R123), the wait
for a falling transition along a run (R124), and the distance (R125). -/

namespace Sys2Proof

/-- R6: `TIMER_MAX` fits a timer field. -/
theorem Config.timerMax_lt {c : Config} (hwf : c.wf = true) : c.timerMax < 2 ^ c.timerW := by
  obtain ⟨-, ⟨-, hmax⟩, -⟩ := Config.wf_iff.1 hwf
  have hpos := Nat.two_pow_pos c.timerW
  omega

/-- R5: the operand buses are as wide as a timer sample. -/
theorem Config.timerW_le_opndW (c : Config) : c.timerW ≤ c.opndW := Nat.le_max_right _ _

end Sys2Proof

namespace Sys2Proof.Machine

/-! ### The sample and the pulse width (R120, R123) -/

theorem State.sampleInRange_iff {s : State} : s.sampleInRange = true ↔ s.port.a.toNat ≤ s.config.timerMax :=
  decide_eq_true_iff

theorem State.sampleInRange_eq_false_iff {s : State} :
    s.sampleInRange = false ↔ s.config.timerMax < s.port.a.toNat := by
  rw [Bool.eq_false_iff, ne_eq, State.sampleInRange_iff, Nat.not_le]

/-- R120: a sample in range loses no bit on its way from the operand bus to a timer field. -/
theorem State.sample_toNat {s : State} (hwf : s.config.wf = true) (hrange : s.port.a.toNat ≤ s.config.timerMax) :
    s.sample.toNat = s.port.a.toNat := by
  rw [State.sample, BitVec.toNat_setWidth, Nat.mod_eq_of_lt (hrange.trans_lt (Config.timerMax_lt hwf))]

/-- R123: for a rise sample in range, the stored width is the one-wrap formula on naturals. -/
theorem pulseWidth_toNat {c : Config} (hwf : c.wf = true) {r f : BitVec c.timerW} (hr : r.toNat ≤ c.timerMax) :
    (pulseWidth c r f).toNat = if r.toNat ≤ f.toNat then f.toNat - r.toNat else (c.timerMax - r.toNat) + f.toNat := by
  have hmax := Config.timerMax_lt hwf
  have hm : (BitVec.ofNat c.timerW c.timerMax).toNat = c.timerMax := Nat.mod_eq_of_lt hmax
  unfold pulseWidth
  split
  · next hle => exact BitVec.toNat_sub_of_le (BitVec.le_def.2 hle)
  · next hlt =>
    rw [BitVec.toNat_add, BitVec.toNat_sub_of_le (BitVec.le_def.2 (hm.symm ▸ hr)), hm, Nat.mod_eq_of_lt (by omega)]

/-- R125: the response bus holds the whole quotient, which is at most the pulse width. -/
theorem distance_lt (c : Config) (width : BitVec c.timerW) : distance c width < 2 ^ c.opndW :=
  calc
    distance c width ≤ width.toNat := Nat.div_le_self _ _
    _ < 2 ^ c.timerW := width.isLt
    _ ≤ 2 ^ c.opndW := Nat.pow_le_pow_right Nat.two_pos c.timerW_le_opndW

/-! ### The transitions (R121, R122) -/

section
variable {c : Config} {b : Block c}

theorem Block.captureTransition_of_awaitingRise (hphase : b.capPhase = .awaitingRise) (sample : BitVec c.timerW) :
    b.captureTransition sample = b.riseTransition sample := by
  simp [Block.captureTransition, hphase]

theorem Block.captureTransition_of_awaitingFall (hphase : b.capPhase = .awaitingFall) (sample : BitVec c.timerW) :
    b.captureTransition sample = b.fallTransition sample := by
  simp [Block.captureTransition, hphase]

end

section
variable {s t : State}

/-- R120: an edge in range, of the armed polarity, takes its phase's transition. -/
theorem exec_capEdge_armed {pol : Polarity} (hrange : s.port.a.toNat ≤ s.config.timerMax)
    (harmed : s.block.capPol = pol) :
    exec (.capEdge pol) s = .next (s.respond (s.block.captureTransition s.sample) .none) :=
  execCapEdge_next.2 (.inr (.inr ⟨State.sampleInRange_iff.2 hrange, harmed, rfl⟩))

theorem exec_capEdge_rise {pol : Polarity} (hrange : s.port.a.toNat ≤ s.config.timerMax)
    (harmed : s.block.capPol = pol) (hphase : s.block.capPhase = .awaitingRise) :
    exec (.capEdge pol) s = .next (s.respond (s.block.riseTransition s.sample) .none) := by
  rw [exec_capEdge_armed hrange harmed, Block.captureTransition_of_awaitingRise hphase]

theorem exec_capEdge_fall {pol : Polarity} (hrange : s.port.a.toNat ≤ s.config.timerMax)
    (harmed : s.block.capPol = pol) (hphase : s.block.capPhase = .awaitingFall) :
    exec (.capEdge pol) s = .next (s.respond (s.block.fallTransition s.sample) .none) := by
  rw [exec_capEdge_armed hrange harmed, Block.captureTransition_of_awaitingFall hphase]

/-! ### The capture fields after one step -/

theorem step_wf (h : step s = .next t) : s.config.wf = true := by
  obtain ⟨p, rest, hwf, -⟩ := step_next.1 h
  exact hwf

/-- `exec_of_nextIs` for a known next presentation. -/
theorem exec_of_nextIs_of_pending {i : Instr} {p : Presentation s.config} {rest : List (Presentation s.config)}
    (hp : s.pending = p :: rest) (hnext : s.nextIs i = true) (h : step s = .next t) :
    exec i (s.latch p rest) = .next t := by
  obtain ⟨p', rest', hp', he⟩ := exec_of_nextIs hnext h
  obtain ⟨rfl, rfl⟩ := List.cons.inj (hp.symm.trans hp')
  exact he

theorem fallsNext_iff {p : Presentation s.config} {rest : List (Presentation s.config)} (hp : s.pending = p :: rest) :
    s.fallsNext = true ↔ s.nextIs (.capEdge .falling) = true ∧ p.a.toNat ≤ s.config.timerMax := by
  unfold State.fallsNext State.nextIs
  cases hf : fetch s with
  | illegal u | refused r => simp
  | operation i u =>
    obtain ⟨p', rest', -, hp', -, rfl⟩ := fetch_operation.1 hf
    obtain ⟨rfl, rfl⟩ := List.cons.inj (hp.symm.trans hp')
    by_cases hi : i = .capEdge .falling
    · subst hi
      simp [State.sampleInRange_iff]
    · simp [hi]

/-- R121: a captured rise leaves its sample, and the last measurement as it was. -/
theorem step_captureView_of_rise {p : Presentation s.config} {rest : List (Presentation s.config)}
    (hp : s.pending = p :: rest) (hnext : s.nextIs (.capEdge .rising) = true) (hrange : p.a.toNat ≤ s.config.timerMax)
    (hpol : s.block.capPol = .rising) (hphase : s.block.capPhase = .awaitingRise) (h : step s = .next t) :
    t.block.captureView =
      (.awaitingFall, .falling, p.a.toNat, s.block.capFallTs.toNat, s.block.capPulseWidth.toNat) := by
  have hsample : (s.latch p rest).sample.toNat = p.a.toNat := State.sample_toNat (step_wf (s := s) h) hrange
  have he := exec_of_nextIs_of_pending hp hnext h
  cases he.symm.trans (exec_capEdge_rise (s := s.latch p rest) hrange hpol hphase)
  rw [← hsample]
  rfl

/-- R122: a fall taken while armed for it leaves its sample and the width of the formula. -/
theorem step_captureView_of_fall {p : Presentation s.config} {rest : List (Presentation s.config)}
    (hp : s.pending = p :: rest) (hfalls : s.fallsNext = true) (hpol : s.block.capPol = .falling)
    (hphase : s.block.capPhase = .awaitingFall) (hrise : s.block.capRiseTs.toNat ≤ s.config.timerMax)
    (h : step s = .next t) :
    t.block.captureView =
      (.awaitingRise, .rising, s.block.capRiseTs.toNat, p.a.toNat,
        if s.block.capRiseTs.toNat ≤ p.a.toNat then p.a.toNat - s.block.capRiseTs.toNat
        else (s.config.timerMax - s.block.capRiseTs.toNat) + p.a.toNat) := by
  obtain ⟨hnext, hrange⟩ := (fallsNext_iff hp).1 hfalls
  have hsample : (s.latch p rest).sample.toNat = p.a.toNat := State.sample_toNat (step_wf (s := s) h) hrange
  have hwidth := pulseWidth_toNat (f := (s.latch p rest).sample) (step_wf h) hrise
  have he := exec_of_nextIs_of_pending hp hnext h
  cases he.symm.trans (exec_capEdge_fall (s := s.latch p rest) hrange hpol hphase)
  rw [← hsample, ← hwidth]
  rfl

/-- R124: while armed for a fall, a step that is no falling transition in range leaves the capture fields alone: a rising
edge is not the armed one, a sample out of range faults, and no other operation writes them. -/
theorem step_captureView_of_no_fall (hpol : s.block.capPol = .falling) (hfalls : s.fallsNext = false)
    (h : step s = .next t) : t.block.captureView = s.block.captureView := by
  obtain ⟨p, rest, -, hp, ⟨i, hnext, -, -, he⟩ | ⟨-, -, -, rfl⟩⟩ := step_cases h
  · by_cases hi : i ∈ [.capEdge .rising, .capEdge .falling]
    · obtain rfl | rfl : i = .capEdge .rising ∨ i = .capEdge .falling := by simpa using hi
      · rw [execCapEdge_captureView he, if_neg (by simp [hpol])]
      · have hrange : ¬ p.a.toNat ≤ s.config.timerMax := fun hrange =>
          Bool.eq_false_iff.1 hfalls ((fallsNext_iff hp).2 ⟨by simp [hnext], hrange⟩)
        rw [execCapEdge_captureView he, if_neg (by simp [State.sampleInRange_iff, hrange])]
    · exact exec_captureView_of_not_capEdge (s := s.latch p rest) hi he
  · exact Block.recordFault_captureView _ _

/-! ### Along a run -/

/-- A property that every step which does not meet `Q` keeps holds at the end of a run none of whose steps meets `Q`. -/
theorem stepN_keeps_of_countAlong_eq_zero {P : State → Prop} {Q : State → Bool}
    (hstep : ∀ s t, P s → Q s = false → step s = .next t → P t) {n : Nat} :
    P s → stepN n s = .next t → countAlong Q n s = 0 → P t := by
  induction n generalizing s with
  | zero =>
    rintro hs h -
    rwa [stepN_zero.1 h]
  | succ n ih =>
    intro hs h hnone
    obtain ⟨u, hu, h⟩ := stepN_succ.1 h
    rw [countAlong_succ hu] at hnone
    obtain ⟨hnow, hlater⟩ := Nat.add_eq_zero_iff.1 hnone
    exact ih (hstep s u hs (by simpa using hnow) hu) h hlater

theorem stepN_config {n : Nat} (h : stepN n s = .next t) : t.config = s.config :=
  stepN_keeps (P := fun u => u.config = s.config) (fun _ _ hs hu => (step_config hu).trans hs) rfl h

/-- R124: armed for a fall, the capture fields wait through any run without a falling transition in range. -/
theorem stepN_captureView_of_no_fall {n : Nat} (hpol : s.block.capPol = .falling) (h : stepN n s = .next t)
    (hnone : countAlong State.fallsNext n s = 0) : t.block.captureView = s.block.captureView := by
  refine stepN_keeps_of_countAlong_eq_zero (P := fun u => u.block.captureView = s.block.captureView)
    (fun u v hu hfalls huv => ?_) rfl h hnone
  have hpol' : u.block.capPol = .falling := (congrArg (fun view => view.2.1) hu).trans hpol
  exact (step_captureView_of_no_fall hpol' hfalls huv).trans hu

end

/-! ### The obligations -/

/-- Settles O32: the rise leaves its sample in the capture fields, they wait for the fall (O33), and the fall is measured
against them. -/
theorem aFallIsMeasuredAgainstItsRise : Obligations.AFallIsMeasuredAgainstItsRise := by
  rintro s t u v n r f p q rest rest' hp hnext rfl hr hpol hphase hst hrun hnone hq hfalls rfl huv
  have ht := step_captureView_of_rise hp hnext hr hpol hphase hst
  have hpol' : t.block.capPol = .falling := congrArg (fun view => view.2.1) ht
  have hu := (stepN_captureView_of_no_fall hpol' hrun hnone).trans ht
  obtain ⟨huphase, hupol, hurise, -, -⟩ : u.block.capPhase = .awaitingFall ∧ u.block.capPol = .falling ∧
      u.block.capRiseTs.toNat = p.a.toNat ∧ _ ∧ _ := by simpa [Block.captureView] using hu
  have hmax : u.config.timerMax = s.config.timerMax :=
    congrArg Config.timerMax ((stepN_config hrun).trans (step_config hst))
  have hv := step_captureView_of_fall hq hfalls hupol huphase (by rwa [hurise, hmax]) huv
  rw [hurise, hmax] at hv
  obtain ⟨hvphase, hvpol, -, -, hwidth⟩ : v.block.capPhase = .awaitingRise ∧ v.block.capPol = .rising ∧ _ ∧ _ ∧
      v.block.capPulseWidth.toNat = _ := by simpa only [Block.captureView, Prod.mk.injEq] using hv
  exact ⟨hwidth, hvphase, hvpol⟩

/-- Settles O31: the transition of R122, with the formula on naturals; below the rise sample its value is at most
`TIMER_MAX` − 1. -/
theorem fallingTransitionStoresThePulseWidth : Obligations.FallingTransitionStoresThePulseWidth := by
  intro s hwf hrange hpol hphase hrise
  have hwidth := pulseWidth_toNat (f := s.sample) hwf hrise
  refine ⟨s.sample, pulseWidth s.config s.block.capRiseTs s.sample, State.sample_toNat hwf hrange,
    exec_capEdge_fall hrange hpol hphase, fun hle => ?_, fun hlt => ?_⟩
  · rw [hwidth, if_pos hle]
  · rw [hwidth, if_neg (Nat.not_le.2 hlt)]
    omega

/-- Settles O33: every step of such a run leaves the capture fields alone. -/
theorem missingEchoLeavesTheMachineAwaitingFall : Obligations.MissingEchoLeavesTheMachineAwaitingFall :=
  fun _ _ _ _ hpol hrun hnone => stepN_captureView_of_no_fall hpol hrun hnone

/-- Settles O29: the three checks of `CAP_EDGE`, in the order of R120. -/
theorem captureEdgeChecksRangeThenPolarity : Obligations.CaptureEdgeChecksRangeThenPolarity :=
  ⟨fun _ _ => ⟨admission_eq_operation_iff, admission_eq_operation_iff⟩, fun _ _ =>
    ⟨fun hout => execCapEdge_next.2 (.inl ⟨State.sampleInRange_eq_false_iff.2 hout, rfl⟩),
      fun hrange hne => execCapEdge_next.2 (.inr (.inl ⟨State.sampleInRange_iff.2 hrange, hne.symm, rfl⟩)),
      fun hrange harmed => exec_capEdge_rise hrange harmed.symm,
      fun hrange harmed => exec_capEdge_fall hrange harmed.symm⟩⟩

/-- Settles O30: the transition of R121; a sample in range is stored whole. -/
theorem risingTransitionStoresTheSample : Obligations.RisingTransitionStoresTheSample :=
  fun s hwf hrange hpol hphase =>
    ⟨s.sample, State.sample_toNat hwf hrange, exec_capEdge_rise hrange hpol hphase⟩

/-- Settles O34: the quotient fits the response bus. -/
theorem distNowAnswersTheTruncatedQuotient : Obligations.DistNowAnswersTheTruncatedQuotient :=
  ⟨fun _ _ => admission_eq_operation_iff, fun _ =>
    ⟨_, execDistNow_next.2 rfl, Nat.mod_eq_of_lt (distance_lt _ _)⟩⟩

end Sys2Proof.Machine

/-! PROOFS. The debounce machine (42_debounce.md): the record an edge leaves (R140, R141), the outcomes of a poll (R142 to
R144), and the presses a run accepts (R145). -/

namespace Sys2Proof.Machine

/-! ### The window and the level (R142, R143) -/

theorem Block.windowElapsed_iff {c : Config} {b : Block c} {n : BitVec c.tickW} :
    b.windowElapsed n = true ↔ c.debounceWindow < (n - b.dbPressTs).toNat := decide_eq_true_iff

theorem Block.windowElapsed_eq_false_iff {c : Config} {b : Block c} {n : BitVec c.tickW} :
    b.windowElapsed n = false ↔ (n - b.dbPressTs).toNat ≤ c.debounceWindow := by
  rw [Bool.eq_false_iff, ne_eq, Block.windowElapsed_iff, Nat.not_lt]

section
variable {s t : State}

theorem State.pressed_iff : s.pressed = true ↔ s.port.btnIn = s.config.btnPressedLevel := beq_iff_eq

theorem State.pressed_eq_false_iff : s.pressed = false ↔ s.port.btnIn ≠ s.config.btnPressedLevel :=
  beq_eq_false_iff_ne

/-! ### The record after one step -/

/-- R140: behind the gate an edge sets the flag and stamps the record with the count. -/
theorem step_record_of_btnEdge (hnext : s.nextIs .btnEdge = true) (hgate : s.block.tickEn = true)
    (h : step s = .next t) : t.block.dbPending = true ∧ t.block.dbPressTs.toNat = s.block.tickCount.toNat := by
  obtain ⟨p, rest, -, he⟩ := exec_of_nextIs hnext h
  obtain ⟨-, rfl⟩ | ⟨hclosed, -⟩ := execBtnEdge_next.1 he
  · exact ⟨rfl, rfl⟩
  · exact absurd (hgate.symm.trans hclosed) nofun

/-- `exec_dbPending`, read from the next presentation. -/
theorem step_dbPending (h : step s = .next t) :
    t.block.dbPending = s.block.dbPending ∨ (s.nextIs .btnEdge = true ∧ t.block.dbPending = true) ∨
      (s.nextIs .btnPoll = true ∧ t.block.dbPending = false) := by
  obtain ⟨p, rest, -, -, ⟨i, hnext, -, -, he⟩ | ⟨-, -, -, rfl⟩⟩ := step_cases h
  · simpa only [hnext, beq_iff_eq] using exec_dbPending he
  · exact .inl (Block.recordFault_dbPending _ _)

theorem step_dbPending_of_not_btnPoll (hs : s.block.dbPending = true) (hpoll : s.nextIs .btnPoll = false)
    (h : step s = .next t) : t.block.dbPending = true := by
  obtain hkept | ⟨-, hset⟩ | ⟨hnext, -⟩ := step_dbPending h
  · exact hkept.trans hs
  · exact hset
  · exact absurd (hpoll.symm.trans hnext) nofun

theorem step_dbPressTs_of_not_btnEdge (hedge : s.nextIs .btnEdge = false) (h : step s = .next t) :
    t.block.dbPressTs.toNat = s.block.dbPressTs.toNat := by
  obtain ⟨p, rest, -, -, ⟨i, hnext, -, -, he⟩ | ⟨-, -, -, rfl⟩⟩ := step_cases h
  · obtain ⟨b, r, rfl, hw⟩ := exec_writesListed he
    have hi : i ≠ .btnEdge := by simpa [hnext] using hedge
    exact congrArg _ (hw.dbPressTs hi)
  · exact congrArg _ (Block.recordFault_dbPressTs _ _)

theorem acceptsPress_imp_resolvesRecord (h : s.acceptsPress = true) : s.resolvesRecord = true :=
  (Bool.and_eq_true_iff.1 h).1

/-- R142: a poll that resolves takes a pending record and leaves none. -/
theorem step_dbPending_of_resolvesRecord (hres : s.resolvesRecord = true) (h : step s = .next t) :
    s.block.dbPending = true ∧ t.block.dbPending = false := by
  obtain ⟨⟨⟨hnext, hpending⟩, hgate⟩, hwindow⟩ : ((s.nextIs .btnPoll = true ∧ s.block.dbPending = true) ∧
      s.block.tickEn = true) ∧ s.block.windowElapsed s.block.tickCount = true := by
    simpa [State.resolvesRecord] using hres
  obtain ⟨p, rest, -, he⟩ := exec_of_nextIs hnext h
  refine ⟨hpending, ?_⟩
  obtain ⟨hidle, -⟩ | ⟨-, hclosed, -⟩ | ⟨-, -, hearly, -⟩ | ⟨-, -, -, -, rfl⟩ | ⟨-, -, -, -, rfl⟩ :=
    execBtnPoll_next.1 he
  · exact absurd (hpending.symm.trans hidle) nofun
  · exact absurd (hgate.symm.trans hclosed) nofun
  · exact absurd (hwindow.symm.trans hearly) nofun
  · rfl
  · rfl

/-- One step of the count of records (R142, R145): accepting a press takes the pending record away, and only an edge
brings a record. -/
theorem step_accepted_add_pending_le (h : step s = .next t) :
    (if s.acceptsPress then 1 else 0) + (if t.block.dbPending then 1 else 0) ≤
      (if s.nextIs .btnEdge then 1 else 0) + (if s.block.dbPending then 1 else 0) := by
  cases haccepts : s.acceptsPress with
  | true =>
    obtain ⟨hs, ht⟩ := step_dbPending_of_resolvesRecord (acceptsPress_imp_resolvesRecord haccepts) h
    simp [hs, ht]
  | false =>
    obtain hkept | ⟨hedge, ht⟩ | ⟨-, ht⟩ := step_dbPending h
    · simp [hkept]
    · simp [hedge, ht]
    · simp [ht]

/-! ### Along a run -/

theorem countAlong_mono {P Q : State → Bool} (hPQ : ∀ s, P s = true → Q s = true) (n : Nat) (s : State) :
    countAlong P n s ≤ countAlong Q n s := by
  induction n generalizing s with
  | zero => exact le_rfl
  | succ n ih =>
    have hnow : (if P s then 1 else 0) ≤ if Q s then 1 else 0 := by
      cases hP : P s with
      | true => simp [hPQ s hP]
      | false => simp
    cases h : step s with
    | next t =>
      rw [countAlong_succ h, countAlong_succ h]
      exact Nat.add_le_add hnow (ih t)
    | fault _ | refused _ => simpa [countAlong, h] using hnow

/-- R142, R145: a run accepts no more presses than its edges and the record pending at its start, less the record pending
at its end. By induction over the run, each step keeping the count of records. -/
theorem stepN_accepted_add_pending_le {n : Nat} (h : stepN n s = .next t) :
    countAlong State.acceptsPress n s + (if t.block.dbPending then 1 else 0) ≤
      countAlong (State.nextIs .btnEdge) n s + (if s.block.dbPending then 1 else 0) := by
  induction n generalizing s with
  | zero =>
    cases stepN_zero.1 h
    exact le_rfl
  | succ n ih =>
    obtain ⟨u, hu, h⟩ := stepN_succ.1 h
    have hnow := step_accepted_add_pending_le hu
    have hlater := ih h
    rw [countAlong_succ hu, countAlong_succ hu]
    omega

/-- Without an edge, a run accepts at most the one record pending at its start. -/
theorem countAlong_acceptsPress_le_one {n : Nat} (h : stepN n s = .next t)
    (hedge : countAlong (State.nextIs .btnEdge) n s = 0) : countAlong State.acceptsPress n s ≤ 1 := by
  have hcount := stepN_accepted_add_pending_le h
  have hpending : (if s.block.dbPending then 1 else 0) ≤ 1 := by split <;> decide
  omega

end

/-! ### The obligations -/

/-- Settles O39: over every run the count of records is kept, step by step. -/
theorem eachRecordIsAcceptedAtMostOnce : Obligations.EachRecordIsAcceptedAtMostOnce :=
  fun _ _ _ h => stepN_accepted_add_pending_le h

/-- Settles O40: an accepting poll resolves the record, so the first steps accept nothing; the following ones, without an
edge, accept at most the record the bounces left. -/
theorem bouncesBeforeAResolvingPollGiveOnePress : Obligations.BouncesBeforeAResolvingPollGiveOnePress := by
  intro s t u m n hst hnone htu hedge
  have hfirst : countAlong State.acceptsPress m s ≤ countAlong State.resolvesRecord m s :=
    countAlong_mono (fun _ => acceptsPress_imp_resolvesRecord) m s
  have hlater := countAlong_acceptsPress_le_one htu hedge
  rw [countAlong_add hst]
  omega

/-- Settles O37: the four outcomes of `BTN_POLL` behind the open gate, with the window and the level read as R142 and R143
write them. -/
theorem buttonPollResolvesThePendingRecord : Obligations.ButtonPollResolvesThePendingRecord :=
  ⟨fun _ _ => admission_eq_operation_iff, fun _ =>
    ⟨fun hidle => execBtnPoll_next.2 (.inl ⟨hidle, rfl⟩),
      fun hpending hgate hearly => execBtnPoll_next.2
        (.inr (.inr (.inl ⟨hpending, hgate, Block.windowElapsed_eq_false_iff.2 hearly, rfl⟩))),
      fun hpending hgate hlate hlevel => execBtnPoll_next.2
        (.inr (.inr (.inr (.inl
          ⟨hpending, hgate, Block.windowElapsed_iff.2 hlate, State.pressed_eq_false_iff.2 hlevel, rfl⟩)))),
      fun hpending hgate hlate hlevel => execBtnPoll_next.2
        (.inr (.inr (.inr (.inr
          ⟨hpending, hgate, Block.windowElapsed_iff.2 hlate, State.pressed_iff.2 hlevel, rfl⟩))))⟩⟩

/-- Settles O38: the edge leaves the flag and the count; without a poll the flag stays, and without an edge the
timestamp. -/
theorem edgesCoalesceIntoOneRecord : Obligations.EdgesCoalesceIntoOneRecord := by
  intro s t u n hnext hgate hst hrun hedge hpoll
  obtain ⟨hpending, hstamp⟩ := step_record_of_btnEdge hnext hgate hst
  constructor
  · exact stepN_keeps_of_countAlong_eq_zero (P := fun v => v.block.dbPending = true)
      (fun _ _ hv hnone hstep => step_dbPending_of_not_btnPoll hv hnone hstep) hpending hrun hpoll
  · exact stepN_keeps_of_countAlong_eq_zero (P := fun v => v.block.dbPressTs.toNat = s.block.tickCount.toNat)
      (fun _ _ hv hnone hstep => (step_dbPressTs_of_not_btnEdge hnone hstep).trans hv) hstamp hrun hedge

/-- Settles O36: the two cases of `BTN_EDGE`; neither reads `DB_PENDING`. -/
theorem buttonEdgeRecordsTheCount : Obligations.ButtonEdgeRecordsTheCount :=
  ⟨fun _ _ => admission_eq_operation_iff, fun _ => ⟨fun hgate => execBtnEdge_next.2 (.inl ⟨hgate, rfl⟩),
    fun hgate => execBtnEdge_next.2 (.inr ⟨hgate, rfl⟩)⟩⟩

end Sys2Proof.Machine

/-! PROOFS. The actuator scheduler (43_actuator.md): the target that `ACT_SET` records (R160), the outcomes of `ACT_UPDATE`
(R161, R165), and the steps that a run takes: their spacing (R163), their count (R164) and their phase (R162). -/

namespace Sys2Proof

/-- R5, R6: every bus can hold the answer 1. -/
theorem Config.opndW_pos {c : Config} (hwf : c.wf = true) : 0 < c.opndW :=
  (Config.wf_iff.1 hwf).1.1.trans c.tickW_le_opndW

/-- Counting down from a value that is not 0 does not wrap. -/
theorem toNat_sub_one_add_one {w : Nat} {x : BitVec w} (hx : x ≠ 0) : (x - 1).toNat + 1 = x.toNat := by
  have hpos : 1 ≤ x.toNat := Nat.one_le_iff_ne_zero.2 fun hzero => hx (BitVec.eq_of_toNat_eq hzero)
  have hone : (1 : BitVec w).toNat = 1 := Nat.mod_eq_of_lt (hpos.trans_lt x.isLt)
  rw [BitVec.toNat_sub_of_le (BitVec.le_def.2 (hone.trans_le hpos)), hone, Nat.sub_add_cancel hpos]

end Sys2Proof

namespace Sys2Proof.Machine

/-! ### The operands and the phase (R160, R162) -/

section
variable {s : State}

theorem State.targetFits_iff : s.targetFits = true ↔
    s.port.a.toNat < 2 ^ s.config.stepW ∧ s.port.b.toNat < 2 ^ s.config.tickW := by
  simp [State.targetFits]

theorem State.targetFits_eq_false_iff : s.targetFits = false ↔
    2 ^ s.config.stepW ≤ s.port.a.toNat ∨ 2 ^ s.config.tickW ≤ s.port.b.toNat := by
  rw [Bool.eq_false_iff, ne_eq, State.targetFits_iff, not_and_or, Nat.not_lt, Nat.not_lt]

/-- R160: a step count that fits loses no bit. -/
theorem State.stepsOperand_toNat (h : s.port.a.toNat < 2 ^ s.config.stepW) :
    s.stepsOperand.toNat = s.port.a.toNat := by
  rw [State.stepsOperand, BitVec.toNat_setWidth, Nat.mod_eq_of_lt h]

/-- R160: an interval that fits loses no bit. -/
theorem State.intervalOperand_toNat (h : s.port.b.toNat < 2 ^ s.config.tickW) :
    s.intervalOperand.toNat = s.port.b.toNat := by
  rw [State.intervalOperand, BitVec.toNat_setWidth, Nat.mod_eq_of_lt h]

/-- R60: a one-bit answer is read back as 0 or 1. -/
theorem State.lastValue_boolValue (hwf : s.config.wf = true) (b : Block s.config) (v : Bool) :
    (s.respond b (boolValue s.config v)).lastValue = some v.toNat := by
  have hpos := Config.opndW_pos hwf
  cases v with
  | false => simp [boolValue]
  | true => simpa [boolValue] using hpos

end

/-- How far one step moves the phase in the cycle of four (R162): −1 is +3 there. -/
def Direction.stride : Direction → Nat
  | .cw => 1
  | .ccw => 3

theorem nextPhase_toNat (p : PhaseIndex) (dir : Direction) :
    (nextPhase p dir).toNat = (p.toNat + Direction.stride dir) % 4 := by
  cases dir <;> exact BitVec.toNat_add _ _

theorem Block.intervalElapsed_iff {c : Config} {b : Block c} {n : BitVec c.tickW} :
    b.intervalElapsed n = true ↔ b.actInterval.toNat ≤ (n - b.actLastTs).toNat := decide_eq_true_iff

theorem Block.intervalElapsed_eq_false_iff {c : Config} {b : Block c} {n : BitVec c.tickW} :
    b.intervalElapsed n = false ↔ (n - b.actLastTs).toNat < b.actInterval.toNat := by
  rw [Bool.eq_false_iff, ne_eq, Block.intervalElapsed_iff, Nat.not_le]

theorem Block.actuatorView_eq_iff {c d : Config} {b : Block c} {k : Block d} : b.actuatorView = k.actuatorView ↔
    b.actSteps.toNat = k.actSteps.toNat ∧ b.actDir = k.actDir ∧ b.actInterval.toNat = k.actInterval.toNat ∧
    b.actLastTs.toNat = k.actLastTs.toNat ∧ b.actPhase = k.actPhase ∧ b.phaseOut = k.phaseOut := by
  simp [Block.actuatorView]

section
variable {s t u : State} {n : Nat}

/-! ### What the next step is about to do -/

/-- A step runs one operation only. -/
theorem nextIs_of_nextIs {i j : Instr} (h : s.nextIs i = true) : s.nextIs j = (i == j) := by
  unfold State.nextIs at *
  cases hf : fetch s with
  | operation k v =>
    rw [hf] at h
    rw [beq_iff_eq.1 h]
  | illegal v | refused r =>
    rw [hf] at h
    cases h

/-- The elapsed count of R161: the ticks since the last step, modulo 2^`TICK_W`. -/
def State.sinceStep (s : State) : Nat := (s.block.tickCount - s.block.actLastTs).toNat

theorem takesStep_iff : s.takesStep = true ↔ s.nextIs .actUpdate = true ∧ s.block.actSteps ≠ 0 ∧
    s.block.tickEn = true ∧ s.block.actInterval.toNat ≤ s.sinceStep := by
  simp [State.takesStep, State.sinceStep, Block.intervalElapsed_iff, Block.idle_eq_false_iff, and_assoc]

/-- A presented operation is run on the latched state. -/
theorem step_present {i : Instr} {a b : BitVec s.config.opndW} {v : Level} {rest : List (Presentation s.config)}
    (hwf : s.config.wf = true) (hp : s.pending = i.present a b v :: rest) :
    step s = exec i (s.latch (i.present a b v) rest) :=
  step_of_operation hwf hp (admission_eq_operation_iff.2 ⟨rfl, rfl⟩)

/-! ### One step of a run -/

/-- R24: no operation closes the gate. -/
theorem step_tickEn_of_open (hgate : s.block.tickEn = true) (h : step s = .next t) : t.block.tickEn = true :=
  (onlyTickInitOpensTheGate.2 s t h).1.2 (.inl hgate)

/-- R161: a step of the actuator, with its frame. -/
theorem step_of_takesStep (htakes : s.takesStep = true) (h : step s = .next t) : ∃ p rest,
    t = (s.latch p rest).respond (s.block.takeStep s.block.tickCount) (boolValue s.config true) := by
  obtain ⟨hnext, hmoving, hgate, hlate⟩ := takesStep_iff.1 htakes
  obtain ⟨p, rest, -, he⟩ := exec_of_nextIs hnext h
  have hstep : exec .actUpdate (s.latch p rest) =
      .next ((s.latch p rest).respond (s.block.takeStep s.block.tickCount) (boolValue s.config true)) :=
    execActUpdate_next.2
      (.inr (.inr (.inr ⟨Block.idle_eq_false_iff.2 hmoving, hgate, Block.intervalElapsed_iff.2 hlate, rfl⟩)))
  cases he.symm.trans hstep
  exact ⟨p, rest, rfl⟩

/-- R164: nothing but `ACT_SET` and a step of the actuator writes an actuator field or its output. -/
theorem step_actuatorView_of_not_takesStep (hset : s.setsTarget = false) (htakes : s.takesStep = false)
    (h : step s = .next t) : t.block.actuatorView = s.block.actuatorView := by
  obtain ⟨p, rest, -, -, ⟨i, hnext, -, -, he⟩ | ⟨-, -, -, rfl⟩⟩ := step_cases h
  · obtain ⟨hcw, hccw⟩ : i ≠ .actSet .cw ∧ i ≠ .actSet .ccw := by simpa [State.setsTarget, hnext] using hset
    by_cases hi : i = .actUpdate
    · subst hi
      obtain ⟨-, rfl⟩ | ⟨-, -, rfl⟩ | ⟨-, -, -, rfl⟩ | ⟨hmoving, hgate, hlate, rfl⟩ := execActUpdate_next.1 he
      · rfl
      · exact Block.recordFault_actuatorView _ _
      · rfl
      · have htakes' : s.takesStep = true := takesStep_iff.2
          ⟨(hnext .actUpdate).trans rfl, Block.idle_eq_false_iff.1 hmoving, hgate, Block.intervalElapsed_iff.1 hlate⟩
        exact absurd (htakes.symm.trans htakes') nofun
    · obtain ⟨b, r, rfl, hw⟩ := exec_writesListed he
      exact hw.actuatorView (by simp [hcw, hccw, hi])
  · exact Block.recordFault_actuatorView _ _

/-- R32, R33: only `ACT_SET` writes the direction and the interval. -/
theorem step_heading_of_not_setsTarget (hset : s.setsTarget = false) (h : step s = .next t) :
    t.block.actDir = s.block.actDir ∧ t.block.actInterval.toNat = s.block.actInterval.toNat := by
  cases htakes : s.takesStep with
  | true =>
    obtain ⟨p, rest, rfl⟩ := step_of_takesStep htakes h
    exact ⟨rfl, rfl⟩
  | false =>
    obtain ⟨-, hdir, hinterval, -⟩ := Block.actuatorView_eq_iff.1 (step_actuatorView_of_not_takesStep hset htakes h)
    exact ⟨hdir, hinterval⟩

/-- R164: a step of the actuator counts one step off, and no other operation but `ACT_SET` writes `ACT_STEPS`. -/
theorem step_actSteps_add_taken (hset : s.setsTarget = false) (h : step s = .next t) :
    t.block.actSteps.toNat + (if s.takesStep then 1 else 0) = s.block.actSteps.toNat := by
  cases htakes : s.takesStep with
  | true =>
    obtain ⟨-, hmoving, -⟩ := takesStep_iff.1 htakes
    obtain ⟨p, rest, rfl⟩ := step_of_takesStep htakes h
    exact toNat_sub_one_add_one hmoving
  | false => exact (Block.actuatorView_eq_iff.1 (step_actuatorView_of_not_takesStep hset htakes h)).1

/-- R162: the phase moves by one place for a step of the actuator, and for nothing else. -/
theorem step_actPhase (hset : s.setsTarget = false) (h : step s = .next t) :
    t.block.actPhase.toNat =
      (s.block.actPhase.toNat + Direction.stride s.block.actDir * if s.takesStep then 1 else 0) % 4 := by
  cases htakes : s.takesStep with
  | true =>
    obtain ⟨p, rest, rfl⟩ := step_of_takesStep htakes h
    rw [if_pos rfl, Nat.mul_one]
    exact nextPhase_toNat _ _
  | false =>
    obtain ⟨-, -, -, -, hphase, -⟩ := Block.actuatorView_eq_iff.1 (step_actuatorView_of_not_takesStep hset htakes h)
    simpa [hphase] using (Nat.mod_eq_of_lt s.block.actPhase.isLt).symm

/-! ### The elapsed count (R161, R163) -/

/-- While the last step's timestamp is kept, the elapsed count moves as the count does. -/
theorem sinceStep_of_tickCount {k : Nat} (hconfig : t.config = s.config)
    (hcount : t.block.tickCount.toNat = (s.block.tickCount.toNat + k) % 2 ^ s.config.tickW)
    (hlast : t.block.actLastTs.toNat = s.block.actLastTs.toNat) :
    t.sinceStep = (s.sinceStep + k) % 2 ^ s.config.tickW := by
  rw [State.sinceStep, State.sinceStep, BitVec.toNat_sub, BitVec.toNat_sub, hlast, hcount, hconfig, Nat.add_mod_mod,
    Nat.mod_add_mod, Nat.add_assoc]

theorem sinceStep_of_takesStep (htakes : s.takesStep = true) (h : step s = .next t) : t.sinceStep = 0 := by
  obtain ⟨p, rest, rfl⟩ := step_of_takesStep htakes h
  simp [State.sinceStep, Block.takeStep]

/-- The balance of R163 for one operation: what a step of the actuator takes from the elapsed count is at least the
interval, and only a `TICK` adds to it. -/
theorem step_interval_balance (hgate : s.block.tickEn = true) (hreset : s.resetsCount = false)
    (hset : s.setsTarget = false) (h : step s = .next t) :
    s.block.actInterval.toNat * (if s.takesStep then 1 else 0) + t.sinceStep ≤
      s.sinceStep + if s.nextIs .tick then 1 else 0 := by
  cases htakes : s.takesStep with
  | true =>
    obtain ⟨-, -, -, hlate⟩ := takesStep_iff.1 htakes
    rw [sinceStep_of_takesStep htakes h, if_pos rfl, Nat.mul_one]
    exact Nat.le_add_right_of_le hlate
  | false =>
    obtain ⟨-, -, -, hlast, -⟩ := Block.actuatorView_eq_iff.1 (step_actuatorView_of_not_takesStep hset htakes h)
    rw [sinceStep_of_tickCount (step_config h) (step_tickCount_of_not_resets hgate hreset h) hlast,
      if_neg Bool.false_ne_true, Nat.mul_zero, Nat.zero_add]
    exact Nat.mod_le _ _

/-! ### Along a run -/

/-- R163, as a balance over a run that resets no count and sets no target: the intervals of the steps taken, and the
elapsed count at the end, are covered by the elapsed count at the start and the ticks. By induction over the run. -/
theorem stepN_interval_balance (hgate : s.block.tickEn = true) (hreset : countAlong State.resetsCount n s = 0)
    (hset : countAlong State.setsTarget n s = 0) (h : stepN n s = .next t) :
    s.block.actInterval.toNat * countAlong State.takesStep n s + t.sinceStep ≤
      s.sinceStep + countAlong (State.nextIs .tick) n s := by
  induction n generalizing s with
  | zero =>
    cases stepN_zero.1 h
    exact le_of_eq (Nat.add_comm _ _)
  | succ n ih =>
    obtain ⟨v, hv, h⟩ := stepN_succ.1 h
    rw [countAlong_succ hv, Nat.add_eq_zero_iff] at hreset hset
    have hreset' : s.resetsCount = false := by simpa using hreset.1
    have hset' : s.setsTarget = false := by simpa using hset.1
    have hgate' := step_tickEn_of_open hgate hv
    have hnow := step_interval_balance hgate hreset' hset' hv
    have hlater := ih hgate' hreset.2 hset.2 h
    rw [(step_heading_of_not_setsTarget hset' hv).2] at hlater
    rw [countAlong_succ hv, countAlong_succ hv, Nat.mul_add]
    omega

theorem stepN_heading (h : stepN n s = .next t) (hset : countAlong State.setsTarget n s = 0) :
    t.block.actDir = s.block.actDir ∧ t.block.actInterval.toNat = s.block.actInterval.toNat := by
  refine stepN_keeps_of_countAlong_eq_zero (P := fun v => v.block.actDir = s.block.actDir ∧
    v.block.actInterval.toNat = s.block.actInterval.toNat) (fun v w hv hnone hvw => ?_) ⟨rfl, rfl⟩ h hset
  obtain ⟨hdir, hinterval⟩ := step_heading_of_not_setsTarget hnone hvw
  exact ⟨hdir.trans hv.1, hinterval.trans hv.2⟩

/-- R164 along a run: the steps taken are the steps counted off. -/
theorem stepN_actSteps_add_taken (h : stepN n s = .next t) (hset : countAlong State.setsTarget n s = 0) :
    t.block.actSteps.toNat + countAlong State.takesStep n s = s.block.actSteps.toNat := by
  induction n generalizing s with
  | zero =>
    cases stepN_zero.1 h
    rfl
  | succ n ih =>
    obtain ⟨v, hv, h⟩ := stepN_succ.1 h
    rw [countAlong_succ hv, Nat.add_eq_zero_iff] at hset
    have hnow := step_actSteps_add_taken (by simpa using hset.1) hv
    have hlater := ih h hset.2
    rw [countAlong_succ hv]
    omega

/-- R162 along a run: the phase moves one place in the direction of travel for each step taken. -/
theorem stepN_actPhase (h : stepN n s = .next t) (hset : countAlong State.setsTarget n s = 0) :
    t.block.actPhase.toNat =
      (s.block.actPhase.toNat + Direction.stride s.block.actDir * countAlong State.takesStep n s) % 4 := by
  induction n generalizing s with
  | zero =>
    cases stepN_zero.1 h
    exact (Nat.mod_eq_of_lt t.block.actPhase.isLt).symm
  | succ n ih =>
    obtain ⟨v, hv, h⟩ := stepN_succ.1 h
    rw [countAlong_succ hv, Nat.add_eq_zero_iff] at hset
    have hset' : s.setsTarget = false := by simpa using hset.1
    rw [ih h hset.2, (step_heading_of_not_setsTarget hset' hv).1, step_actPhase hset' hv, Nat.mod_add_mod,
      countAlong_succ hv, Nat.mul_add, Nat.add_assoc]

/-- Steps that meet `P` and steps that meet `Q` are different steps, where no state meets both. -/
theorem countAlong_add_le {P Q : State → Bool} (hPQ : ∀ s, P s = true → Q s = false) (n : Nat) (s : State) :
    countAlong P n s + countAlong Q n s ≤ n := by
  induction n generalizing s with
  | zero => exact le_rfl
  | succ n ih =>
    have hnow : (if P s then 1 else 0) + (if Q s then 1 else 0) ≤ 1 := by
      cases hP : P s with
      | true => simp [hPQ s hP]
      | false => cases Q s <;> decide
    cases h : step s with
    | next t =>
      have hlater := ih t
      rw [countAlong_succ h, countAlong_succ h]
      omega
    | fault _ | refused _ =>
      simp only [countAlong, h]
      omega

/-- In a run of nothing but `P` steps, no step meets a `Q` that excludes `P`. -/
theorem countAlong_eq_zero_of_excludes {P Q : State → Bool} (hPQ : ∀ s, P s = true → Q s = false)
    (hall : countAlong P n s = n) : countAlong Q n s = 0 := by
  have hsum := countAlong_add_le hPQ n s
  omega

/-- A run of nothing but `P` steps begins with one and goes on with such a run. -/
theorem countAlong_eq_length_succ {P : State → Bool} (h : step s = .next t) (hall : countAlong P (n + 1) s = n + 1) :
    P s = true ∧ countAlong P n t = n := by
  have hle := countAlong_add_le (P := P) (Q := fun _ => false) (fun _ _ => rfl) n t
  rw [countAlong_succ h] at hall
  cases hP : P s with
  | true =>
    rw [hP, if_pos rfl] at hall
    exact ⟨rfl, by omega⟩
  | false =>
    rw [hP, if_neg Bool.false_ne_true] at hall
    omega

theorem resetsCount_of_nextIs {i : Instr} (hi : i ∉ [.tickInit, .tickReset, .btnPoll]) (h : s.nextIs i = true) :
    s.resetsCount = false := by
  obtain ⟨hinit, hreset, hpoll⟩ : i ≠ .tickInit ∧ i ≠ .tickReset ∧ i ≠ .btnPoll := by simpa using hi
  simp [State.resetsCount, State.acceptsPress, State.resolvesRecord, nextIs_of_nextIs h, hinit, hreset, hpoll]

theorem setsTarget_of_nextIs {i : Instr} (hi : i ∉ [.actSet .cw, .actSet .ccw]) (h : s.nextIs i = true) :
    s.setsTarget = false := by
  obtain ⟨hcw, hccw⟩ : i ≠ .actSet .cw ∧ i ≠ .actSet .ccw := by simpa using hi
  simp [State.setsTarget, nextIs_of_nextIs h, hcw, hccw]

/-- R163: once a step is taken, polls alone take no other, as nothing ages the last one. -/
theorem countAlong_takesStep_of_sinceStep_eq_zero (hgate : s.block.tickEn = true) (hzero : s.sinceStep = 0)
    (hinterval : s.block.actInterval.toNat ≠ 0) (h : stepN n s = .next t)
    (hall : countAlong (State.nextIs .actUpdate) n s = n) : countAlong State.takesStep n s = 0 := by
  have hbalance := stepN_interval_balance hgate
    (countAlong_eq_zero_of_excludes (fun _ => resetsCount_of_nextIs (by decide)) hall)
    (countAlong_eq_zero_of_excludes (fun _ => setsTarget_of_nextIs (by decide)) hall) h
  have hnoTick : countAlong (State.nextIs .tick) n s = 0 :=
    countAlong_eq_zero_of_excludes (fun _ hnext => nextIs_of_nextIs hnext) hall
  have hmul : s.block.actInterval.toNat * countAlong State.takesStep n s = 0 := by omega
  exact (Nat.mul_eq_zero.1 hmul).resolve_left hinterval

/-- Ticks alone keep the actuator and age its last step by one each. -/
theorem stepN_of_only_ticks (hgate : s.block.tickEn = true) (h : stepN n s = .next t)
    (hall : countAlong (State.nextIs .tick) n s = n) :
    t.block.tickEn = true ∧ t.block.actuatorView = s.block.actuatorView ∧
      t.sinceStep = (s.sinceStep + n) % 2 ^ s.config.tickW := by
  have hopen : t.block.tickEn = true := stepN_keeps (P := fun v => v.block.tickEn = true)
    (fun _ _ hv hvw => step_tickEn_of_open hv hvw) hgate h
  have hview : t.block.actuatorView = s.block.actuatorView := by
    refine stepN_keeps_of_countAlong_eq_zero (P := fun v => v.block.actuatorView = s.block.actuatorView)
      (Q := fun v => !v.nextIs .tick) (fun v w hv htick hvw => ?_) rfl h
      (countAlong_eq_zero_of_excludes (fun _ hnext => by simp [hnext]) hall)
    have hnext : v.nextIs .tick = true := by simpa using htick
    obtain ⟨p, rest, -, he⟩ := exec_of_nextIs hnext hvw
    obtain ⟨b, r, rfl, hw⟩ := exec_writesListed he
    exact (hw.actuatorView (by decide)).trans hv
  obtain ⟨-, -, -, hlast, -⟩ := Block.actuatorView_eq_iff.1 hview
  have hcount := stepN_tickCount hgate
    (countAlong_eq_zero_of_excludes (fun _ => resetsCount_of_nextIs (by decide)) hall) h
  rw [hall] at hcount
  exact ⟨hopen, hview, sinceStep_of_tickCount (stepN_config h) hcount hlast⟩

/-! ### The operations of the source's scenario (R167) -/

/-- R160 for a presented `ACT_SET`: what a later step reads of the block it leaves. -/
theorem step_actSet_of_fits {dir : Direction} {a b : BitVec s.config.opndW} {v : Level}
    {rest : List (Presentation s.config)} (hp : s.pending = (Instr.actSet dir).present a b v :: rest)
    (hwf : s.config.wf = true) (hgate : s.block.tickEn = true) (ha : a.toNat < 2 ^ s.config.stepW)
    (hb : b.toNat < 2 ^ s.config.tickW) :
    ∃ k : Block s.config, step s = .next ((s.latch ((Instr.actSet dir).present a b v) rest).respond k .none) ∧
      k.tickEn = true ∧ k.tickCount = s.block.tickCount ∧ k.actSteps.toNat = a.toNat ∧
      k.actInterval.toNat = b.toNat ∧ k.actLastTs = k.tickCount - k.actInterval :=
  ⟨_, (step_present hwf hp).trans
      (execActSet_next.2 (.inr (.inr ⟨State.targetFits_iff.2 ⟨ha, hb⟩, hgate, rfl⟩))),
    hgate, rfl, State.stepsOperand_toNat (s := s.latch _ rest) ha,
    State.intervalOperand_toNat (s := s.latch _ rest) hb, rfl⟩

theorem poll_of_idle {a b : BitVec s.config.opndW} {v : Level} {rest : List (Presentation s.config)}
    (hp : s.pending = Instr.actUpdate.present a b v :: rest) (hwf : s.config.wf = true)
    (hidle : s.block.actSteps = 0) : ∃ x, step s = .next x ∧ x.lastValue = some 0 :=
  ⟨_, (step_present hwf hp).trans (execActUpdate_next.2 (.inl ⟨Block.idle_iff.2 hidle, rfl⟩)),
    State.lastValue_boolValue (s := s.latch _ rest) hwf _ false⟩

/-- With one step remaining and the interval elapsed, a poll takes the step and the next one finds the actuator idle. -/
theorem polls_of_lastStep {v : Level}
    (hp : s.pending = [Instr.actUpdate.present 0 0 v, Instr.actUpdate.present 0 0 v]) (hwf : s.config.wf = true)
    (hgate : s.block.tickEn = true) (hone : s.block.actSteps.toNat = 1)
    (hdue : s.block.actInterval.toNat ≤ s.sinceStep) :
    ∃ w, step s = .next w ∧ w.lastValue = some 1 ∧ w.block.actSteps.toNat = 0 ∧
      ∃ x, step w = .next x ∧ x.lastValue = some 0 := by
  have hmoving : s.block.actSteps ≠ 0 := fun hidle => by simp [hidle] at hone
  have hzero : (s.block.actSteps - 1).toNat = 0 :=
    Nat.succ.inj ((toNat_sub_one_add_one hmoving).trans hone)
  exact ⟨_, (step_present hwf hp).trans (execActUpdate_next.2 (.inr (.inr (.inr
      ⟨Block.idle_eq_false_iff.2 hmoving, hgate, Block.intervalElapsed_iff.2 hdue, rfl⟩)))),
    State.lastValue_boolValue (s := s.latch _ _) hwf _ true, hzero,
    poll_of_idle rfl hwf (BitVec.eq_of_toNat_eq hzero)⟩

/-- The same where the interval has elapsed after a tick. -/
theorem tick_then_polls_of_lastStep {v : Level}
    (hp : s.pending =
      [Instr.tick.present 0 0 v, Instr.actUpdate.present 0 0 v, Instr.actUpdate.present 0 0 v])
    (hwf : s.config.wf = true) (hgate : s.block.tickEn = true) (hone : s.block.actSteps.toNat = 1)
    (hdue : s.block.actInterval.toNat ≤ (s.sinceStep + 1) % 2 ^ s.config.tickW)
    {count : Nat} (hcount : (s.block.tickCount.toNat + 1) % 2 ^ s.config.tickW = count) :
    ∃ u, step s = .next u ∧ u.block.tickCount.toNat = count ∧
      ∃ w, step u = .next w ∧ w.lastValue = some 1 ∧ w.block.actSteps.toNat = 0 ∧
        ∃ x, step w = .next x ∧ x.lastValue = some 0 := by
  have hmoved : (s.block.tickCount + 1).toNat = (s.block.tickCount.toNat + 1) % 2 ^ s.config.tickW := by
    rw [BitVec.toNat_add]
    exact Nat.add_mod_mod _ _ _
  exact ⟨_, (step_present hwf hp).trans (execTick_next.2 (.inl ⟨hgate, rfl⟩)), hmoved.trans hcount,
    polls_of_lastStep rfl hwf hgate hone (hdue.trans_eq (Eq.symm (sinceStep_of_tickCount rfl hmoved rfl)))⟩

end

/-! ### The obligations -/

/-- Settles O45: the first step leaves an elapsed count of 0, and the second one finds it at least the interval; the
balance of R163 has the ticks cover the difference. -/
theorem stepsAreAtLeastAnIntervalApart : Obligations.StepsAreAtLeastAnIntervalApart := by
  intro s t u n hs hst hrun hreset hset hu
  obtain ⟨hnext, -, hgate, -⟩ := takesStep_iff.1 hs
  obtain ⟨-, -, -, hlate⟩ := takesStep_iff.1 hu
  have hkept := (step_heading_of_not_setsTarget (setsTarget_of_nextIs (by decide) hnext) hst).2
  calc
    s.block.actInterval.toNat = u.block.actInterval.toNat := ((stepN_heading hrun hset).2.trans hkept).symm
    _ ≤ u.sinceStep := hlate
    _ ≤ t.sinceStep + countAlong (State.nextIs .tick) n t :=
      (Nat.le_add_left _ _).trans (stepN_interval_balance (step_tickEn_of_open hgate hst) hreset hset hrun)
    _ = countAlong (State.nextIs .tick) n t := by rw [sinceStep_of_takesStep hs hst, Nat.zero_add]

/-- Settles O46: by induction over the run up to the first step of the actuator, after which the polls take no other. -/
theorem updatesWithoutATickTakeOneStep : Obligations.UpdatesWithoutATickTakeOneStep := by
  intro s t n h hall hinterval
  replace hinterval : s.block.actInterval.toNat ≠ 0 := fun hzero => hinterval (BitVec.eq_of_toNat_eq hzero)
  induction n generalizing s with
  | zero => exact Nat.zero_le 1
  | succ n ih =>
    obtain ⟨u, hu, h⟩ := stepN_succ.1 h
    obtain ⟨hnext, hlater⟩ := countAlong_eq_length_succ hu hall
    have hkept := (step_heading_of_not_setsTarget (setsTarget_of_nextIs (by decide) hnext) hu).2
    rw [← hkept] at hinterval
    rw [countAlong_succ hu]
    cases htakes : s.takesStep with
    | true =>
      obtain ⟨-, -, hgate, -⟩ := takesStep_iff.1 htakes
      rw [countAlong_takesStep_of_sinceStep_eq_zero (step_tickEn_of_open hgate hu) (sinceStep_of_takesStep htakes hu)
        hinterval h hlater]
      exact le_rfl
    | false => simpa using ih u h hlater hinterval

/-- Settles O43: idle, waiting and stepping are the three outcomes of `ACT_UPDATE` with nothing to fault on; a step
advances the phase by its stride and counts one step off. -/
theorem actUpdateTakesAtMostOneStep : Obligations.ActUpdateTakesAtMostOneStep := by
  refine ⟨fun _ _ => admission_eq_operation_iff, fun s => ⟨fun hidle => ?_, fun hmoving hgate hearly => ?_,
    fun hmoving hgate hlate => ⟨nextPhase s.block.actPhase s.block.actDir, s.block.actSteps - 1, ?_, ?_, ?_, ?_⟩⟩⟩
  · exact execActUpdate_next.2 (.inl ⟨Block.idle_iff.2 hidle, rfl⟩)
  · exact execActUpdate_next.2 (.inr (.inr (.inl
      ⟨Block.idle_eq_false_iff.2 hmoving, hgate, Block.intervalElapsed_eq_false_iff.2 hearly, rfl⟩)))
  · exact execActUpdate_next.2 (.inr (.inr (.inr
      ⟨Block.idle_eq_false_iff.2 hmoving, hgate, Block.intervalElapsed_iff.2 hlate, rfl⟩)))
  · exact Nat.eq_sub_of_add_eq (toNat_sub_one_add_one hmoving)
  · intro hdir
    rw [nextPhase_toNat, hdir, Direction.stride]
  · intro hdir
    rw [nextPhase_toNat, hdir, Direction.stride]

/-- Settles O44: the closed gate, where a moving actuator faults, is shut out by the invariants (R40.3). -/
theorem actUpdateAnswersWhetherStepsRemained : Obligations.ActUpdateAnswersWhetherStepsRemained := by
  intro s t hinv hnext h
  have hwf := step_wf h
  obtain ⟨p, rest, -, he⟩ := exec_of_nextIs hnext h
  obtain ⟨hidle, rfl⟩ | ⟨hmoving, hclosed, -⟩ | ⟨hmoving, -, -, rfl⟩ | ⟨hmoving, -, -, rfl⟩ := execActUpdate_next.1 he
  · rw [if_pos (Block.idle_iff.1 hidle)]
    exact State.lastValue_boolValue (s := s.latch p rest) hwf _ false
  · exact absurd (hinv.movingGated (Block.idle_eq_false_iff.1 hmoving)) (Bool.eq_false_iff.1 hclosed)
  all_goals
    rw [if_neg (Block.idle_eq_false_iff.1 hmoving)]
    exact State.lastValue_boolValue (s := s.latch p rest) hwf _ true

/-- Settles O47: a step of the actuator is counted off and stamped, and any other operation but `ACT_SET` leaves the
actuator alone. -/
theorem stepsRemainingGoDownOnlyByStepping : Obligations.StepsRemainingGoDownOnlyByStepping := by
  refine fun s t h hset => ⟨step_actSteps_add_taken hset h, fun htakes => ?_,
    fun htakes => step_actuatorView_of_not_takesStep hset htakes h⟩
  obtain ⟨p, rest, rfl⟩ := step_of_takesStep htakes h
  rfl

/-- Settles O48: the run's counting of steps and its phase, with the stride of each direction written out. -/
theorem phaseFollowsTheStepsTaken : Obligations.PhaseFollowsTheStepsTaken := by
  intro s t n h hset
  have hsteps := stepN_actSteps_add_taken h hset
  have hphase := stepN_actPhase h hset
  refine ⟨by omega, by omega, (stepN_heading h hset).1, ?_⟩
  cases hdir : s.block.actDir with
  | cw => rw [hphase, hdir, Direction.stride, Nat.one_mul]
  | ccw => rw [hphase, hdir, Direction.stride]

/-- Settles O49: the ticks keep the actuator and leave an elapsed count of `d`, so the poll takes a step. -/
theorem aPacedPollTakesItsStep : Obligations.APacedPollTakesItsStep := by
  intro s t u d hgate hmoving hlast hinterval hd hrun hall hnext htu
  obtain ⟨hopen, hview, helapsed⟩ := stepN_of_only_ticks hgate hrun hall
  obtain ⟨hsteps, hdir, hinterval', -, hphase, -⟩ := Block.actuatorView_eq_iff.1 hview
  have hzero : s.sinceStep = 0 := by simp [State.sinceStep, hlast]
  rw [hzero, Nat.zero_add, Nat.mod_eq_of_lt hd] at helapsed
  have hmoving' : t.block.actSteps ≠ 0 := fun hidle => hmoving (BitVec.eq_of_toNat_eq (by simp [← hsteps, hidle]))
  have htakes : t.takesStep = true := takesStep_iff.2 ⟨hnext, hmoving', hopen, by rwa [helapsed, hinterval']⟩
  have hcounted := toNat_sub_one_add_one hmoving'
  have hwf := step_wf htu
  obtain ⟨p, rest, rfl⟩ := step_of_takesStep htakes htu
  refine ⟨State.lastValue_boolValue (s := t.latch p rest) hwf _ true, ?_, rfl, hopen, hinterval', hdir, ?_⟩
  · rw [← hsteps]
    exact Nat.eq_sub_of_add_eq hcounted
  · rw [← hphase, ← hdir]
    rfl

/-- Settles O42: operands that fit lose no bit, and the timestamp is the count less the interval. -/
theorem actSetRecordsTheTarget : Obligations.ActSetRecordsTheTarget :=
  ⟨fun _ _ => ⟨admission_eq_operation_iff, admission_eq_operation_iff⟩, fun s _ =>
    ⟨fun ha hb hgate => ⟨s.stepsOperand, s.intervalOperand, s.block.tickCount - s.intervalOperand,
        execActSet_next.2 (.inr (.inr ⟨State.targetFits_iff.2 ⟨ha, hb⟩, hgate, rfl⟩)),
        State.stepsOperand_toNat ha, State.intervalOperand_toNat hb, rfl, sub_sub_cancel _ _⟩,
      fun hwide => execActSet_next.2 (.inl ⟨State.targetFits_eq_false_iff.2 hwide, rfl⟩),
      fun ha hb hgate => execActSet_next.2 (.inr (.inl ⟨State.targetFits_iff.2 ⟨ha, hb⟩, hgate, rfl⟩))⟩⟩

/-- Settles O50: 1000 − 5 = 995, and the elapsed count reads as 5, then after the tick as 6, when the last step is due. -/
theorem theSourceScenarioTakesOneStep : Obligations.TheSourceScenarioTakesOneStep := by
  intro c b port v rs hwf hwidth hgate hcount
  have htickW : 1024 ≤ 2 ^ c.tickW := Nat.pow_le_pow_right Nat.two_pos hwidth
  have hopndW : 1024 ≤ 2 ^ c.opndW := htickW.trans (Nat.pow_le_pow_right Nat.two_pos c.tickW_le_opndW)
  have hstepW : 1 < 2 ^ c.stepW := Nat.one_lt_two_pow (Nat.one_le_iff_ne_zero.1 (Config.wf_iff.1 hwf).1.2.2)
  have hone : (1 : BitVec c.opndW).toNat = 1 :=
    Nat.mod_eq_of_lt (Nat.lt_of_lt_of_le (show 1 < 1024 by decide) hopndW)
  have hfive : (5 : BitVec c.opndW).toNat = 5 :=
    Nat.mod_eq_of_lt (Nat.lt_of_lt_of_le (show 5 < 1024 by decide) hopndW)
  obtain ⟨k, hset, hopen, hkept, hsteps, hinterval, hlast⟩ := step_actSet_of_fits
    (s := ⟨c, b, port, [(Instr.actSet .cw).present 1 5 v, Instr.tick.present 0 0 v, Instr.actUpdate.present 0 0 v,
      Instr.actUpdate.present 0 0 v], rs⟩) rfl hwf hgate (hone.trans_lt hstepW)
    (hfive.trans_lt (Nat.lt_of_lt_of_le (by decide) htickW))
  replace hcount : k.tickCount.toNat = 1000 := (congrArg BitVec.toNat hkept).trans hcount
  replace hinterval : k.actInterval.toNat = 5 := hinterval.trans hfive
  have hstamp : k.actLastTs.toNat = 995 := by
    rw [hlast, BitVec.toNat_sub_of_le (BitVec.le_def.2 (by omega)), hcount, hinterval]
  have hsince : (k.tickCount - k.actLastTs).toNat = 5 := by rw [hlast, sub_sub_cancel, hinterval]
  have hdue : k.actInterval.toNat ≤ ((k.tickCount - k.actLastTs).toNat + 1) % 2 ^ c.tickW := by
    rw [hsince, hinterval, Nat.mod_eq_of_lt (by omega)]
    decide
  have hticked : (k.tickCount.toNat + 1) % 2 ^ c.tickW = 1001 := by
    rw [hcount, Nat.mod_eq_of_lt (by omega)]
  simp only [exists_and_left]
  exact ⟨_, hset, hsteps.trans hone, hstamp,
    tick_then_polls_of_lastStep (v := v) rfl hwf hopen (hsteps.trans hone) hdue hticked⟩

end Sys2Proof.Machine

/-! PROOFS. Faults (60_exceptions.md): what raising one does (R180, R182), when a step raises one (R184), and that only a
broken duty does (R196). -/

namespace Sys2Proof

/-- R75: on the Host port a word that decodes to nothing is illegal. -/
theorem admission_host_of_decode_none {w : OpWord} (hd : decode w = none) : admission .host w = .illegal := by
  rw [admission, hd]
  rfl

end Sys2Proof

namespace Sys2Proof.Machine

section
variable {s t u : State} {i : Instr}

/-! ### Whether a step faults (R182) -/

theorem State.lastFault_respond_of_cause? {b : Block s.config} {r : Response s.config} (hr : r.cause? = none) :
    (s.respond b r).lastFault = none := by
  cases r with
  | none | value _ => rfl
  | fault cause => cases hr

/-- A step raises a fault on the latched state, or it answers no fault and keeps `FAULT_CAUSE`. -/
theorem step_faults_or_keeps (h : step s = .next t) :
    (∃ p rest cause, t = (s.latch p rest).faulting cause) ∨
    (t.lastFault = none ∧ t.block.faultCause = s.block.faultCause) := by
  obtain ⟨p, rest, -, -, ⟨i, -, he⟩ | ⟨-, rfl⟩⟩ := step_next.1 h
  · obtain ⟨cause, rfl⟩ | ⟨b, r, rfl, hr, hcause, -⟩ := exec_faults_or_writes he
    · exact .inl ⟨p, rest, cause, rfl⟩
    · exact .inr ⟨State.lastFault_respond_of_cause? hr, hcause⟩
  · exact .inl ⟨p, rest, .illegalOp, rfl⟩

/-! ### Duties (R196) -/

/-- R40.2, R40.3: an operation that the closed gate stops is one that R196 wants after `TICK_INIT`; the invariants leave
`BTN_POLL` nothing pending and `ACT_UPDATE` nothing to move. -/
theorem breaksDuty_of_uninit (hu : u.Inv) (hf : fetch s = .operation i u)
    (hi : i ∈ [.tickNow, .tickReset, .btnEdge, .btnPoll, .actSet .cw, .actSet .ccw, .actUpdate])
    (gate : u.block.tickEn = false) (pending : i = .btnPoll → u.block.dbPending = true)
    (moving : i = .actUpdate → u.block.idle = false) : s.breaksDuty = true := by
  cases i with
  | tickNow | tickReset | btnEdge | actSet _ => simp [State.breaksDuty, State.meetsDuties, hf, gate]
  | btnPoll => exact absurd (gate.symm.trans (hu.pendingGated (pending rfl))) nofun
  | actUpdate => exact absurd (gate.symm.trans (hu.movingGated (Block.idle_eq_false_iff.1 (moving rfl)))) nofun
  | tick | capEdge _ | tickInit | distNow => simp at hi

/-- Case by case, the condition an operation faults under is the negation of the duty that guards it. -/
theorem breaksDuty_iff_exec_faults (hu : u.Inv) (hf : fetch s = .operation i u) (h : exec i u = .next t) :
    s.breaksDuty = true ↔ ∃ cause, t.lastFault = some cause := by
  cases exec_effect h with
  | uninit hi gate pending moving => exact iff_of_true (breaksDuty_of_uninit hu hf hi gate pending moving) ⟨_, rfl⟩
  | tickReinit guard | captureRange guard | targetTooWide guard =>
    exact iff_of_true (by simp [State.breaksDuty, State.meetsDuties, hf, guard]) ⟨_, rfl⟩
  | tickInit guard | tickNow guard | tickReset guard | btnEdge guard | unarmed guard _ | rise guard _ _
  | fall guard _ _ => exact iff_of_false (by simp [State.breaksDuty, State.meetsDuties, hf, guard]) nofun
  | target fits gate => exact iff_of_false (by simp [State.breaksDuty, State.meetsDuties, hf, fits, gate]) nofun
  | tick _ | tickIgnored _ | distNow | pollIdle _ | pollEarly _ _ _ | pollGlitch _ _ _ _ | pollPress _ _ _ _
  | updateIdle _ | updateEarly _ _ _ | updateStep _ _ _ =>
    exact iff_of_false (by simp [State.breaksDuty, State.meetsDuties, hf]) nofun

theorem breaksDuty_iff_step_faults (hs : s.Inv) (h : step s = .next t) :
    s.breaksDuty = true ↔ ∃ cause, t.lastFault = some cause := by
  obtain ⟨p, rest, -, -, ⟨i, -, -, hf, he⟩ | ⟨-, -, hf, rfl⟩⟩ := step_cases h
  · exact breaksDuty_iff_exec_faults (u := s.latch p rest) hs hf he
  · exact iff_of_true (by simp [State.breaksDuty, State.meetsDuties, hf]) ⟨_, rfl⟩

theorem step_faultCause_of_meetsDuties (hs : s.Inv) (hmeets : s.breaksDuty = false) (h : step s = .next t) :
    t.block.faultCause = s.block.faultCause := by
  obtain ⟨p, rest, cause, rfl⟩ | ⟨-, hkept⟩ := step_faults_or_keeps h
  · have hbreaks := (breaksDuty_iff_step_faults hs h).2 ⟨cause, rfl⟩
    exact absurd (hmeets.symm.trans hbreaks) nofun
  · exact hkept

end

/-! ### The obligations -/

/-- Settles O56: a step faults exactly when it breaks a duty, so one that breaks none keeps `FAULT_CAUSE`, and with the
invariants (O54) this carries along the run. -/
theorem faultsAreExactlyBrokenDuties : Obligations.FaultsAreExactlyBrokenDuties := by
  refine ⟨fun s t n hs hrun hnone => ?_, fun s t hs h => breaksDuty_iff_step_faults hs h⟩
  have hkeep : ∀ u v : State, (u.Inv ∧ u.block.faultCause = s.block.faultCause) → u.breaksDuty = false →
      step u = .next v → v.Inv ∧ v.block.faultCause = s.block.faultCause := fun u v ⟨hu, hcause⟩ hmeets h =>
    ⟨everyStepKeepsTheInvariants u v hu h, (step_faultCause_of_meetsDuties hu hmeets h).trans hcause⟩
  obtain ⟨-, hcause⟩ := stepN_keeps_of_countAlong_eq_zero hkeep ⟨hs, rfl⟩ hrun hnone
  exact hcause

/-- Settles O12: a step that answers a fault has recorded its cause on the latched state, and recording keeps every
view. -/
theorem faultsArePrecise : Obligations.FaultsArePrecise := by
  intro s t cause h hfault
  obtain ⟨p, rest, raised, rfl⟩ | ⟨hnone, -⟩ := step_faults_or_keeps h
  · obtain rfl : raised = cause := Option.some.inj hfault
    exact ⟨Block.recordFault_tickView _ _, Block.recordFault_captureView _ _, Block.recordFault_debounceView _ _,
      Block.recordFault_actuatorView _ _, Block.recordFault_faultCause _ _⟩
  · exact absurd (hnone.symm.trans hfault) nofun

/-- Settles O13: an illegal Host word runs no operation, and the range's faults are raised whatever the gate is. -/
theorem faultConditionsAreCheckedInOrder : Obligations.FaultConditionsAreCheckedInOrder :=
  ⟨fun _ _ _ hwf hp hhost hd => step_of_illegal hwf hp (hhost ▸ admission_host_of_decode_none hd),
    fun _ _ hwide => execActSet_next.2 (.inl ⟨State.targetFits_eq_false_iff.2 hwide, rfl⟩),
    fun _ _ hrange => execCapEdge_next.2 (.inl ⟨State.sampleInRange_eq_false_iff.2 hrange, rfl⟩),
    fun _ _ ha hb hgate => execActSet_next.2 (.inr (.inl ⟨State.targetFits_iff.2 ⟨ha, hb⟩, hgate, rfl⟩))⟩

/-- Settles O10: raising a fault answers the block with the cause recorded, and recording is the one field update. -/
theorem raisingAFaultKeepsTheFirstCause : Obligations.RaisingAFaultKeepsTheFirstCause :=
  ⟨fun _ _ => by rw [raiseFault_eq, State.faulting, Block.recordFault_eq], rfl, rfl, rfl, rfl⟩

end Sys2Proof.Machine

/-! PROOFS. Reset and hazards (70_reset_and_hazards.md): what block reset leaves (R210, R213), how a held timestamp above
the count is read (R215), and the wait for a press since the last edge (R219). -/

namespace Sys2Proof.Machine

section
variable {s t : State} {n : Nat}

/-! ### The count since the last edge (R143, R219) -/

/-- The elapsed count of R143: the ticks since the pending edge, modulo 2^`TICK_W`. -/
def State.sinceEdge (s : State) : Nat := (s.block.tickCount - s.block.dbPressTs).toNat

theorem debounceWindow_lt_sinceEdge_of_acceptsPress (haccepts : s.acceptsPress = true) :
    s.config.debounceWindow < s.sinceEdge :=
  Block.windowElapsed_iff.1 (Bool.and_eq_true_iff.1 (acceptsPress_imp_resolvesRecord haccepts)).2

theorem sinceEdge_of_btnEdge (hnext : s.nextIs .btnEdge = true) (hgate : s.block.tickEn = true)
    (h : step s = .next t) : t.sinceEdge = 0 := by
  obtain ⟨p, rest, -, he⟩ := exec_of_nextIs hnext h
  obtain ⟨-, rfl⟩ | ⟨hclosed, -⟩ := execBtnEdge_next.1 he
  · simp [State.sinceEdge]
  · exact absurd (hgate.symm.trans hclosed) nofun

/-- Without an edge the timestamp is kept, so the elapsed count moves as the count does: by the run's `TICK` events. -/
theorem stepN_sinceEdge (hgate : s.block.tickEn = true) (hedge : countAlong (State.nextIs .btnEdge) n s = 0)
    (hreset : countAlong State.resetsCount n s = 0) (h : stepN n s = .next t) :
    t.sinceEdge = (s.sinceEdge + countAlong (State.nextIs .tick) n s) % 2 ^ s.config.tickW := by
  have hstamp : t.block.dbPressTs.toNat = s.block.dbPressTs.toNat :=
    stepN_keeps_of_countAlong_eq_zero (P := fun v => v.block.dbPressTs.toNat = s.block.dbPressTs.toNat)
      (fun _ _ hv hnone hstep => (step_dbPressTs_of_not_btnEdge hnone hstep).trans hv) rfl h hedge
  rw [State.sinceEdge, State.sinceEdge, BitVec.toNat_sub, BitVec.toNat_sub, hstamp, stepN_tickCount hgate hreset h,
    stepN_config h, Nat.add_mod_mod, Nat.mod_add_mod, Nat.add_assoc]

end

/-! ### A timestamp above the count (R215) -/

/-- R215: a timestamp `l` above the count `c` is read as 2^`TICK_W` − `l` + `c` ticks old. -/
theorem toNat_sub_of_toNat_lt {w : Nat} {c l : BitVec w} (h : c.toNat < l.toNat) :
    (c - l).toNat = 2 ^ w - l.toNat + c.toNat := by
  have hl := l.isLt
  rw [BitVec.toNat_sub_of_lt (BitVec.lt_def.2 h)]
  omega

/-! ### The obligations -/

/-- Settles O41: the edge leaves an elapsed count of 0, only the run's ticks add to it, and the accepting poll finds it
above the window. -/
theorem pressesAreAcceptedOnlyAfterTheWindow : Obligations.PressesAreAcceptedOnlyAfterTheWindow := by
  intro s t u n hnext hgate hst hrun hedge hreset haccepts
  calc
    s.config.debounceWindow = u.config.debounceWindow := by rw [stepN_config hrun, step_config hst]
    _ < u.sinceEdge := debounceWindow_lt_sinceEdge_of_acceptsPress haccepts
    _ ≤ t.sinceEdge + countAlong (State.nextIs .tick) n t :=
      (stepN_sinceEdge (step_tickEn_of_open hgate hst) hedge hreset hrun).trans_le (Nat.mod_le _ _)
    _ = countAlong (State.nextIs .tick) n t := by rw [sinceEdge_of_btnEdge hnext hgate hst, Nat.zero_add]

/-- Settles O51: with the held timestamp's age rewritten by `toNat_sub_of_toNat_lt`, the interval has elapsed for
`ACT_UPDATE`, and the window for `BTN_POLL`, which resolves the record at either level. -/
theorem counterResetAgesHeldTimestamps : Obligations.CounterResetAgesHeldTimestamps := by
  refine fun s hgate => ⟨fun habove hmoving hdue => ?_, fun habove hpending hdue => ?_⟩
  · rw [← toNat_sub_of_toNat_lt habove] at hdue
    exact ⟨s.block.takeStep s.block.tickCount, execActUpdate_next.2 (.inr (.inr (.inr
      ⟨Block.idle_eq_false_iff.2 hmoving, hgate, Block.intervalElapsed_iff.2 hdue, rfl⟩))),
      toNat_sub_one_add_one hmoving, rfl⟩
  · rw [← toNat_sub_of_toNat_lt habove] at hdue
    obtain ⟨-, -, hreleased, hpressed⟩ := buttonPollResolvesThePendingRecord.2 s
    by_cases hlevel : s.port.btnIn = s.config.btnPressedLevel
    · exact ⟨_, _, hpressed hpending hgate hdue hlevel, rfl⟩
    · exact ⟨_, _, hreleased hpending hgate hdue hlevel, rfl⟩

/-- Settles O52: power-on starts from `Block.reset`, which is R210's list. -/
theorem blockResetSetsEveryField : Obligations.BlockResetSetsEveryField := fun _ _ _ => rfl

/-- Settles O53: the base case of O55. -/
theorem blockResetMeetsTheInvariants : Obligations.BlockResetMeetsTheInvariants := powerOn_inv

end Sys2Proof.Machine
